-- ==== Sys2Proof/Word.lean ====
section
/-! DEFINITION. The word types of the CHIP-8 core (spec/00_scope.md R6, spec/30_encoding.md R71): every register, memory and
operand value is an unsigned bit vector of its own width; time is an exact rational (spec/10_state.md R29). -/

namespace Sys2Proof

/-- 8 bits: a general register, a memory byte, the immediate `NN`. -/
abbrev Byte := BitVec 8

/-- 16 bits: an instruction word, `I`, `PC`, a call-stack slot. -/
abbrev Word := BitVec 16

/-- 4 bits: the fields `Set`, `X`, `Y`, `N`, and a key code. -/
abbrev Nibble := BitVec 4

/-- 12 bits: the field `NNN`. -/
abbrev Addr12 := BitVec 12

/-- An amount of time in seconds, exact (spec/10_state.md R29). -/
abbrev Seconds := Rat

end Sys2Proof
end

