-- ==== Sys2Proof/Config.lean ====
section
/-! DEFINITION. The open parameters of the core (spec/00_scope.md R5, spec/92_eei_decisions.md "Open parameters, collected")
and the free values (constants with no body: nothing in Lean can evaluate them or prove a value of them). -/

namespace Sys2Proof

/-- Which register `8XY6` shifts (spec/43_alu.md R136, decision D15). -/
inductive ShrSource where
  | vx
  | vy
  deriving DecidableEq, Repr

/-- The parameters the spec calls OPEN: "the model takes it as an argument" (spec/00_scope.md R5). `exec` and `step` have no
argument for them, so a `Config` is a field of the state that nothing changes (log entry 5), and a statement about every
state holds for every value of the parameters. -/
structure Config where
  /-- `STACK_DEPTH`, 12 to 16 (spec/10_state.md R24, D3). -/
  stackDepth : Nat
  /-- `FONT`, the 80 bytes installed at address 0 (spec/20_memory.md R51, D7). -/
  font : Vector Byte 80
  /-- `SHR_SOURCE` (spec/43_alu.md R136, D15). -/
  shrSource : ShrSource
  /-- `CLS_REFRESH`: does `CLS` strobe the display sink (spec/44_display.md R150, D20). -/
  clsRefresh : Bool
  /-- `DRW_REFRESH_ALWAYS`: does `DRW` strobe the sink when no pixel changed (spec/44_display.md R156, D20). -/
  drwRefreshAlways : Bool
  deriving DecidableEq, Repr

/-- The default `FONT` of spec/93_implementation_defined.md G1. PRESUMED, unsafe: the spec itself takes these bytes from
general knowledge (log entry 1). -/
def Config.defaultFont : Vector Byte 80 :=
  #v[0xF0, 0x90, 0x90, 0x90, 0xF0,  0x20, 0x60, 0x20, 0x20, 0x70,
     0xF0, 0x10, 0xF0, 0x80, 0xF0,  0xF0, 0x10, 0xF0, 0x10, 0xF0,
     0x90, 0x90, 0xF0, 0x10, 0x10,  0xF0, 0x80, 0xF0, 0x10, 0xF0,
     0xF0, 0x80, 0xF0, 0x90, 0xF0,  0xF0, 0x10, 0x20, 0x40, 0x40,
     0xF0, 0x90, 0xF0, 0x90, 0xF0,  0xF0, 0x90, 0xF0, 0x10, 0xF0,
     0xF0, 0x90, 0xF0, 0x90, 0x90,  0xE0, 0x90, 0xE0, 0x90, 0xE0,
     0xF0, 0x80, 0x80, 0x80, 0xF0,  0xE0, 0x90, 0x90, 0x90, 0xE0,
     0xF0, 0x80, 0xF0, 0x80, 0xF0,  0xF0, 0x80, 0xF0, 0x80, 0x80]

/-- The defaults the spec names for its open parameters (spec/00_scope.md R5; log entries 1 to 4). -/
def Config.default : Config where
  stackDepth := 16
  font := Config.defaultFont
  shrSource := .vx
  clsRefresh := true
  drwRefreshAlways := false

/-! The free values. Each takes the number of the draw (`State.draws`), so that two draws need not agree. -/

/-- The byte `RandomByte()` draws (spec/42_load_imm.md R123, D21, U4; log entry 13). -/
opaque Config.randomByte : Nat → Byte

/-- Numerator of an unspecified amount of time (spec/47_host_operations.md R185, U11; log entry 14). -/
opaque Config.freeNumerator : Nat → Nat

/-- Denominator, less one, of an unspecified amount of time (log entry 14). -/
opaque Config.freeDenominator : Nat → Nat

/-- An unspecified register file after `InvalidRom` (spec/70_reset_and_hazards.md R233, U12; log entry 15). -/
opaque Config.freeRegisters : Nat → Vector Byte 16

/-- An unspecified 16-bit register or stack slot, by draw and by place, after `InvalidRom` (log entry 15). -/
opaque Config.freeWord : Nat → Nat → Word

/-- An unspecified count of valid stack entries, reduced to the depth where it is used (log entry 15). -/
opaque Config.freeCount : Nat → Nat

/-- An unspecified memory byte, by draw and by address, after `InvalidRom` (log entry 15). -/
opaque Config.freeByte : Nat → Nat → Byte

/-- An unspecified video buffer after `InvalidRom` (log entry 15). -/
opaque Config.freePixels : Nat → Vector (Vector Bool 64) 32

/-- Unspecified key codes after `InvalidRom`, repeats removed where they are used (log entry 15). -/
opaque Config.freeKeys : Nat → List Nibble

/-- An unspecified amount of time: any non-negative rational (spec/10_state.md R29 keeps it non-negative). -/
def Config.freeSeconds (k : Nat) : Seconds :=
  mkRat (Config.freeNumerator k) (Config.freeDenominator k + 1)

end Sys2Proof
end

