-- ==== Sys2Proof/Syntax.lean ====
section
/-! DEFINITION. The 30 instructions of spec/30_encoding.md R74, one constructor per row of spec/opcode_table.json, in the
table's order. Operands are the unsigned fields of the word (R75), each in the type of its own width, so that no
constructor can be applied to an operand the encoding does not admit. -/

namespace Sys2Proof

/-- One constructor per row of the opcode map (spec/30_encoding.md R74). -/
inductive Instr where
  /-- `00E0` `CLS`, spec/44_display.md R150. -/
  | cls
  /-- `00EE` `RET`, spec/41_flow.md R110. -/
  | ret
  /-- `1NNN` `JP NNN`, spec/41_flow.md R111. -/
  | jp (nnn : Addr12)
  /-- `2NNN` `CALL NNN`, spec/41_flow.md R112. -/
  | call (nnn : Addr12)
  /-- `3XNN` `SE Vx, NN`, spec/41_flow.md R113. -/
  | seImm (x : Nibble) (nn : Byte)
  /-- `4XNN` `SNE Vx, NN`, spec/41_flow.md R114. -/
  | sneImm (x : Nibble) (nn : Byte)
  /-- `6XNN` `LD Vx, NN`, spec/42_load_imm.md R120. -/
  | ldImm (x : Nibble) (nn : Byte)
  /-- `7XNN` `ADD Vx, NN`, spec/42_load_imm.md R121. -/
  | addImm (x : Nibble) (nn : Byte)
  /-- `8XY0` `LD Vx, Vy`, spec/43_alu.md R130. -/
  | ldReg (x y : Nibble)
  /-- `8XY1` `OR Vx, Vy`, spec/43_alu.md R131. -/
  | orReg (x y : Nibble)
  /-- `8XY2` `AND Vx, Vy`, spec/43_alu.md R132. -/
  | andReg (x y : Nibble)
  /-- `8XY3` `XOR Vx, Vy`, spec/43_alu.md R133. -/
  | xorReg (x y : Nibble)
  /-- `8XY4` `ADD Vx, Vy`, spec/43_alu.md R134. -/
  | addReg (x y : Nibble)
  /-- `8XY5` `SUB Vx, Vy`, spec/43_alu.md R135. -/
  | subReg (x y : Nibble)
  /-- `8XY6` `SHR Vx, Vy`, spec/43_alu.md R136. -/
  | shrReg (x y : Nibble)
  /-- `8XY7` `SUBN Vx, Vy`, spec/43_alu.md R137. -/
  | subnReg (x y : Nibble)
  /-- `9XY0` `SNE Vx, Vy`, spec/41_flow.md R115. -/
  | sneReg (x y : Nibble)
  /-- `ANNN` `LD I, NNN`, spec/42_load_imm.md R122. -/
  | ldI (nnn : Addr12)
  /-- `CXNN` `RND Vx, NN`, spec/42_load_imm.md R123. -/
  | rnd (x : Nibble) (nn : Byte)
  /-- `DXYN` `DRW Vx, Vy, N`, spec/44_display.md R151. -/
  | drw (x y n : Nibble)
  /-- `EX9E` `SKP Vx`, spec/45_keys_timers_sound.md R160. -/
  | skp (x : Nibble)
  /-- `EXA1` `SKNP Vx`, spec/45_keys_timers_sound.md R161. -/
  | sknp (x : Nibble)
  /-- `FX07` `LD Vx, DT`, spec/45_keys_timers_sound.md R162. -/
  | ldVxDt (x : Nibble)
  /-- `FX0A` `LD Vx, K`, spec/45_keys_timers_sound.md R163. -/
  | ldVxK (x : Nibble)
  /-- `FX15` `LD DT, Vx`, spec/45_keys_timers_sound.md R164. -/
  | ldDtVx (x : Nibble)
  /-- `FX18` `SND Vx`, spec/45_keys_timers_sound.md R165. -/
  | snd (x : Nibble)
  /-- `FX1E` `ADD I, Vx`, spec/46_index_memory.md R170. -/
  | addI (x : Nibble)
  /-- `FX29` `LD F, Vx`, spec/46_index_memory.md R171. -/
  | ldF (x : Nibble)
  /-- `FX33` `BCD Vx`, spec/46_index_memory.md R172. -/
  | bcd (x : Nibble)
  /-- `FX65` `LD Vx, [I]`, spec/46_index_memory.md R173. -/
  | ldRegs (x : Nibble)
  deriving DecidableEq, Repr

end Sys2Proof
end

