-- ==== Sys2Proof/WellFormed.lean ====
section
/-! DEFINITION. What must hold of syntax and of the parameters beyond their types. -/

namespace Sys2Proof

/-- An instruction needs no check beyond its types: "every selector value names a register and there is no invalid register
number" (spec/10_state.md R20), and every value of `NN`, `NNN` and `N` is an operand (spec/30_encoding.md R75). The types
`Nibble`, `Byte` and `Addr12` of the operands leave nothing to refuse. -/
def Instr.wellFormed (_ : Instr) : Bool :=
  true

/-- `STACK_DEPTH` is 12 to 16 (spec/10_state.md R24); the other parameters have types that hold nothing illegal. -/
def Config.wellFormed (c : Config) : Bool :=
  decide (12 ≤ c.stackDepth) && decide (c.stackDepth ≤ 16)

end Sys2Proof
end

