-- ==== Sys2Proof/Decode.lean ====
section
/-! DEFINITION. The OpCode Decoder (spec/30_encoding.md R71, R76, R77), total on every word and on every list of bytes, and
after it the encoder, the opcode map's masks and the assembler text (R74, R80). -/

namespace Sys2Proof

/-- The six outputs of the decoder for one word (spec/30_encoding.md R71); transient, never state (spec/10_state.md R32). -/
structure OpCode where
  set : Nibble
  x : Nibble
  y : Nibble
  n : Nibble
  nn : Byte
  nnn : Addr12
  deriving DecidableEq, Repr

/-- Field `Set`, bits 15:12. -/
def setField (w : Word) : Nibble :=
  w.extractLsb' 12 4

/-- Field `X`, bits 11:8. -/
def xField (w : Word) : Nibble :=
  w.extractLsb' 8 4

/-- Field `Y`, bits 7:4. -/
def yField (w : Word) : Nibble :=
  w.extractLsb' 4 4

/-- Field `N`, bits 3:0. -/
def nField (w : Word) : Nibble :=
  w.extractLsb' 0 4

/-- Field `NN`, bits 7:0. -/
def nnField (w : Word) : Byte :=
  w.extractLsb' 0 8

/-- Field `NNN`, bits 11:0. -/
def nnnField (w : Word) : Addr12 :=
  w.extractLsb' 0 12

/-- The decoder proper: "pure, no side effects, no failure modes" (spec/30_encoding.md R71). -/
def opCode (w : Word) : OpCode where
  set := setField w
  x := xField w
  y := yField w
  n := nField w
  nn := nnField w
  nnn := nnnField w

/-- Why a word or a byte list is no instruction. -/
inductive DecodeError where
  /-- The word matches no row of R74: `UnimplementedOpcode{set, sub}` (spec/30_encoding.md R77, spec/60_exceptions.md R201). -/
  | unimplemented (set : Nibble) (sub : Option Byte)
  /-- Fewer than two bytes were given; the core never does this, a fetch is of two bytes (spec/20_memory.md R52). -/
  | truncated
  deriving DecidableEq, Repr

/-- The sub-selector an `UnimplementedOpcode` reports (spec/60_exceptions.md R201): `NN` in families 0x0, 0xE and 0xF, `N`
zero-extended in families 0x8 and 0x9, none elsewhere. -/
def subSelector (w : Word) : Option Byte :=
  match setField w with
  | 0x0#4 => some (nnField w)
  | 0x8#4 => some ((nField w).setWidth 8)
  | 0x9#4 => some ((nField w).setWidth 8)
  | 0xE#4 => some (nnField w)
  | 0xF#4 => some (nnField w)
  | _ => none

/-- Secondary mapping of family 0x0, on the whole `NNN` (spec/30_encoding.md R76; the strict match is decision D10, log
entry 19). -/
def decodeFamily0 (c : OpCode) : Option Instr :=
  match c.nnn with
  | 0x0E0#12 => some .cls
  | 0x0EE#12 => some .ret
  | _ => none

/-- Secondary mapping of family 0x8, on `N` (spec/30_encoding.md R76). -/
def decodeFamily8 (c : OpCode) : Option Instr :=
  match c.n with
  | 0x0#4 => some (.ldReg c.x c.y)
  | 0x1#4 => some (.orReg c.x c.y)
  | 0x2#4 => some (.andReg c.x c.y)
  | 0x3#4 => some (.xorReg c.x c.y)
  | 0x4#4 => some (.addReg c.x c.y)
  | 0x5#4 => some (.subReg c.x c.y)
  | 0x6#4 => some (.shrReg c.x c.y)
  | 0x7#4 => some (.subnReg c.x c.y)
  | _ => none

/-- Secondary mapping of family 0x9, on `N` (spec/30_encoding.md R76; decision D10, log entry 19). -/
def decodeFamily9 (c : OpCode) : Option Instr :=
  match c.n with
  | 0x0#4 => some (.sneReg c.x c.y)
  | _ => none

/-- Secondary mapping of family 0xE, on `NN` (spec/30_encoding.md R76). -/
def decodeFamilyE (c : OpCode) : Option Instr :=
  match c.nn with
  | 0x9E#8 => some (.skp c.x)
  | 0xA1#8 => some (.sknp c.x)
  | _ => none

/-- Secondary mapping of family 0xF, on `NN` (spec/30_encoding.md R76). -/
def decodeFamilyF (c : OpCode) : Option Instr :=
  match c.nn with
  | 0x07#8 => some (.ldVxDt c.x)
  | 0x0A#8 => some (.ldVxK c.x)
  | 0x15#8 => some (.ldDtVx c.x)
  | 0x18#8 => some (.snd c.x)
  | 0x1E#8 => some (.addI c.x)
  | 0x29#8 => some (.ldF c.x)
  | 0x33#8 => some (.bcd c.x)
  | 0x65#8 => some (.ldRegs c.x)
  | _ => none

/-- Primary mapping on `Set` (spec/30_encoding.md R76): entries 0x5 and 0xB are absent. -/
def decodeOpCode (c : OpCode) : Option Instr :=
  match c.set with
  | 0x0#4 => decodeFamily0 c
  | 0x1#4 => some (.jp c.nnn)
  | 0x2#4 => some (.call c.nnn)
  | 0x3#4 => some (.seImm c.x c.nn)
  | 0x4#4 => some (.sneImm c.x c.nn)
  | 0x6#4 => some (.ldImm c.x c.nn)
  | 0x7#4 => some (.addImm c.x c.nn)
  | 0x8#4 => decodeFamily8 c
  | 0x9#4 => decodeFamily9 c
  | 0xA#4 => some (.ldI c.nnn)
  | 0xC#4 => some (.rnd c.x c.nn)
  | 0xD#4 => some (.drw c.x c.y c.n)
  | 0xE#4 => decodeFamilyE c
  | 0xF#4 => decodeFamilyF c
  | _ => none

/-- One word: its instruction, or `UnimplementedOpcode` by name with `set` and `sub` (spec/30_encoding.md R77). -/
def decodeWord (w : Word) : Except DecodeError Instr :=
  match decodeOpCode (opCode w) with
  | some i => .ok i
  | none => .error (.unimplemented (setField w) (subSelector w))

/-- The word of two bytes, high byte at the lower address (spec/20_memory.md R53). -/
def wordOfBytes (hi lo : Byte) : Word :=
  hi ++ lo

/-- The byte of a word at the lower address. -/
def highByte (w : Word) : Byte :=
  w.extractLsb' 8 8

/-- The byte of a word at the higher address. -/
def lowByte (w : Word) : Byte :=
  w.extractLsb' 0 8

/-- The decoder on bytes: the instruction of the first two and the bytes after it. -/
def decodeBytes : List Byte → Except DecodeError (Instr × List Byte)
  | hi :: lo :: rest =>
    match decodeWord (wordOfBytes hi lo) with
    | .ok i => .ok (i, rest)
    | .error e => .error e
  | _ => .error .truncated

/-! ## The encoder -/

/-- Format class `A`: `Set NNN` (spec/30_encoding.md R73). -/
def encodeA (set : Nibble) (nnn : Addr12) : Word :=
  set ++ nnn

/-- Format classes `XI` and `XM`: `Set X NN`. -/
def encodeXI (set x : Nibble) (nn : Byte) : Word :=
  set ++ x ++ nn

/-- Format classes `XY` and `XYN`: `Set X Y N`. -/
def encodeXYN (set x y n : Nibble) : Word :=
  set ++ x ++ y ++ n

/-- The word of an instruction (spec/30_encoding.md R74). -/
def Instr.encode : Instr → Word
  | .cls => 0x00E0
  | .ret => 0x00EE
  | .jp nnn => encodeA 0x1 nnn
  | .call nnn => encodeA 0x2 nnn
  | .seImm x nn => encodeXI 0x3 x nn
  | .sneImm x nn => encodeXI 0x4 x nn
  | .ldImm x nn => encodeXI 0x6 x nn
  | .addImm x nn => encodeXI 0x7 x nn
  | .ldReg x y => encodeXYN 0x8 x y 0x0
  | .orReg x y => encodeXYN 0x8 x y 0x1
  | .andReg x y => encodeXYN 0x8 x y 0x2
  | .xorReg x y => encodeXYN 0x8 x y 0x3
  | .addReg x y => encodeXYN 0x8 x y 0x4
  | .subReg x y => encodeXYN 0x8 x y 0x5
  | .shrReg x y => encodeXYN 0x8 x y 0x6
  | .subnReg x y => encodeXYN 0x8 x y 0x7
  | .sneReg x y => encodeXYN 0x9 x y 0x0
  | .ldI nnn => encodeA 0xA nnn
  | .rnd x nn => encodeXI 0xC x nn
  | .drw x y n => encodeXYN 0xD x y n
  | .skp x => encodeXI 0xE x 0x9E
  | .sknp x => encodeXI 0xE x 0xA1
  | .ldVxDt x => encodeXI 0xF x 0x07
  | .ldVxK x => encodeXI 0xF x 0x0A
  | .ldDtVx x => encodeXI 0xF x 0x15
  | .snd x => encodeXI 0xF x 0x18
  | .addI x => encodeXI 0xF x 0x1E
  | .ldF x => encodeXI 0xF x 0x29
  | .bcd x => encodeXI 0xF x 0x33
  | .ldRegs x => encodeXI 0xF x 0x65

/-- The bytes of an instruction in memory order (spec/20_memory.md R53). -/
def Instr.encodeBytes (i : Instr) : List Byte :=
  [highByte i.encode, lowByte i.encode]

/-! ## The opcode map -/

/-- Column "mask" of the row of an instruction (spec/30_encoding.md R74): the bits the row fixes. -/
def Instr.rowMask : Instr → Word
  | .cls | .ret => 0xFFFF
  | .jp _ | .call _ | .ldI _ => 0xF000
  | .seImm _ _ | .sneImm _ _ | .ldImm _ _ | .addImm _ _ | .rnd _ _ => 0xF000
  | .ldReg _ _ | .orReg _ _ | .andReg _ _ | .xorReg _ _ => 0xF00F
  | .addReg _ _ | .subReg _ _ | .shrReg _ _ | .subnReg _ _ | .sneReg _ _ => 0xF00F
  | .drw _ _ _ => 0xF000
  | .skp _ | .sknp _ | .ldVxDt _ | .ldVxK _ | .ldDtVx _ => 0xF0FF
  | .snd _ | .addI _ | .ldF _ | .bcd _ | .ldRegs _ => 0xF0FF

/-- Column "match" of the row of an instruction (spec/30_encoding.md R74). -/
def Instr.rowPattern : Instr → Word
  | .cls => 0x00E0
  | .ret => 0x00EE
  | .jp _ => 0x1000
  | .call _ => 0x2000
  | .seImm _ _ => 0x3000
  | .sneImm _ _ => 0x4000
  | .ldImm _ _ => 0x6000
  | .addImm _ _ => 0x7000
  | .ldReg _ _ => 0x8000
  | .orReg _ _ => 0x8001
  | .andReg _ _ => 0x8002
  | .xorReg _ _ => 0x8003
  | .addReg _ _ => 0x8004
  | .subReg _ _ => 0x8005
  | .shrReg _ _ => 0x8006
  | .subnReg _ _ => 0x8007
  | .sneReg _ _ => 0x9000
  | .ldI _ => 0xA000
  | .rnd _ _ => 0xC000
  | .drw _ _ _ => 0xD000
  | .skp _ => 0xE09E
  | .sknp _ => 0xE0A1
  | .ldVxDt _ => 0xF007
  | .ldVxK _ => 0xF00A
  | .ldDtVx _ => 0xF015
  | .snd _ => 0xF018
  | .addI _ => 0xF01E
  | .ldF _ => 0xF029
  | .bcd _ => 0xF033
  | .ldRegs _ => 0xF065

/-- Columns "mask" and "match" of the whole opcode map (spec/30_encoding.md R74), rows 1 to 30 in the table's order, written
apart from the decoder, which follows the dispatch structure of R76. -/
def opcodeRows : List (Word × Word) :=
  [(0xFFFF, 0x00E0), (0xFFFF, 0x00EE), (0xF000, 0x1000), (0xF000, 0x2000), (0xF000, 0x3000),
   (0xF000, 0x4000), (0xF000, 0x6000), (0xF000, 0x7000), (0xF00F, 0x8000), (0xF00F, 0x8001)] ++
  [(0xF00F, 0x8002), (0xF00F, 0x8003), (0xF00F, 0x8004), (0xF00F, 0x8005), (0xF00F, 0x8006),
   (0xF00F, 0x8007), (0xF00F, 0x9000), (0xF000, 0xA000), (0xF000, 0xC000), (0xF000, 0xD000)] ++
  [(0xF0FF, 0xE09E), (0xF0FF, 0xE0A1), (0xF0FF, 0xF007), (0xF0FF, 0xF00A), (0xF0FF, 0xF015),
   (0xF0FF, 0xF018), (0xF0FF, 0xF01E), (0xF0FF, 0xF029), (0xF0FF, 0xF033), (0xF0FF, 0xF065)]

/-- A word selects a row when `w and mask = match` (spec/30_encoding.md R74). -/
def selectsRow (w : Word) (row : Word × Word) : Bool :=
  (w &&& row.1) == row.2

/-! ## Assembler text (spec/30_encoding.md R80) -/

/-- One hexadecimal digit, upper case. -/
def hexDigit (d : Nibble) : Char :=
  "0123456789ABCDEF".toList.getD d.toNat '0'

/-- A register operand, `V0` to `VF`. -/
def regText (x : Nibble) : String :=
  String.ofList ['V', hexDigit x]

/-- A byte immediate, `0x` and two digits. -/
def byteText (b : Byte) : String :=
  String.ofList ['0', 'x', hexDigit (b.extractLsb' 4 4), hexDigit (b.extractLsb' 0 4)]

/-- An address immediate, `0x` and three digits. -/
def addrText (a : Addr12) : String :=
  String.ofList
    ['0', 'x', hexDigit (a.extractLsb' 8 4), hexDigit (a.extractLsb' 4 4), hexDigit (a.extractLsb' 0 4)]

/-- The line the spec's own listings write for an instruction (spec/30_encoding.md R80, decision D26). -/
def Instr.toAsm : Instr → String
  | .cls => "CLS"
  | .ret => "RET"
  | .jp nnn => "JP " ++ addrText nnn
  | .call nnn => "CALL " ++ addrText nnn
  | .seImm x nn => "SE " ++ regText x ++ ", " ++ byteText nn
  | .sneImm x nn => "SNE " ++ regText x ++ ", " ++ byteText nn
  | .ldImm x nn => "LD " ++ regText x ++ ", " ++ byteText nn
  | .addImm x nn => "ADD " ++ regText x ++ ", " ++ byteText nn
  | .ldReg x y => "LD " ++ regText x ++ ", " ++ regText y
  | .orReg x y => "OR " ++ regText x ++ ", " ++ regText y
  | .andReg x y => "AND " ++ regText x ++ ", " ++ regText y
  | .xorReg x y => "XOR " ++ regText x ++ ", " ++ regText y
  | .addReg x y => "ADD " ++ regText x ++ ", " ++ regText y
  | .subReg x y => "SUB " ++ regText x ++ ", " ++ regText y
  | .shrReg x y => "SHR " ++ regText x ++ ", " ++ regText y
  | .subnReg x y => "SUBN " ++ regText x ++ ", " ++ regText y
  | .sneReg x y => "SNE " ++ regText x ++ ", " ++ regText y
  | .ldI nnn => "LD I, " ++ addrText nnn
  | .rnd x nn => "RND " ++ regText x ++ ", " ++ byteText nn
  | .drw x y n => "DRW " ++ regText x ++ ", " ++ regText y ++ ", 0x" ++ String.ofList [hexDigit n]
  | .skp x => "SKP " ++ regText x
  | .sknp x => "SKNP " ++ regText x
  | .ldVxDt x => "LD " ++ regText x ++ ", DT"
  | .ldVxK x => "LD " ++ regText x ++ ", K"
  | .ldDtVx x => "LD DT, " ++ regText x
  | .snd x => "SND " ++ regText x
  | .addI x => "ADD I, " ++ regText x
  | .ldF x => "LD F, " ++ regText x
  | .bcd x => "BCD " ++ regText x
  | .ldRegs x => "LD " ++ regText x ++ ", [I]"

/-! ## The host's question about the opcode table -/

/-- The word whose bits are `w` in a row of `nbits` bits: bits at or above `nbits` are 0. The table numbers the one 16-bit word
of an instruction, bit 0 its least significant. -/
def tableWord (nbits w : Nat) : Word :=
  BitVec.ofNat 16 (w % 2 ^ nbits)

/-- What the decoder reads from an instruction whose bits are `w`, laid out in memory high byte first. -/
def decodeTableWord (nbits w : Nat) : Option Instr :=
  match decodeBytes [highByte (tableWord nbits w), lowByte (tableWord nbits w)] with
  | .ok (i, _) => some i
  | .error _ => none

end Sys2Proof
end

