-- ==== Sys2Proof/Machine/State.lean ====
section
/-! DEFINITION. The state of the CHIP-8 core as plain data (spec/10_state.md), the host's moves and the output events as data,
why a step stops, and the state right after reset (spec/10_state.md R36). -/

namespace Sys2Proof.Machine

/-- Memory: the cells that differ from what an unlisted address reads as (`Memory.background`), addresses strictly rising. -/
abbrev Memory := List Host.Cell

/-- The video buffer (spec/10_state.md R28): 32 rows from the top, each of 64 columns from the left (D27, log entry 26). -/
abbrev Grid := Vector (Vector Bool 64) 32

/-- Causes 1 to 5 of a fatal fault (spec/60_exceptions.md R200); code 0, no fault, is the empty latch. -/
inductive Cause where
  /-- Code 1: `ExecuteOne` at dispatch, the word matches no row (R201). -/
  | unimplementedOpcode
  /-- Code 2: `2NNN` with `SP = STACK_DEPTH` (R202). -/
  | stackOverflow
  /-- Code 3: `00EE` with `SP = 0` (R203). -/
  | stackUnderflow
  /-- Code 4: the fetch, `DXYN`, `FX33`, `FX65` at an address above 0xFFF (R204). -/
  | addressOutOfRange
  /-- Code 5: `LoadRom` of zero bytes (R205). -/
  | invalidRom
  deriving DecidableEq, Repr

/-- The fault record (spec/60_exceptions.md R200, decision D11; log entry 9). -/
structure FaultRecord where
  cause : Cause
  /-- Address of the faulting instruction; 0x0200 for `InvalidRom`. -/
  pc : Word
  /-- The fetched word; 0 when the fetch itself faulted, and for `InvalidRom`. -/
  word : Word
  /-- `word[15:12]`. -/
  set : Nibble
  /-- The sub-selector, `none` for the clear valid bit (R201). -/
  sub : Option Byte
  /-- The lowest bad address of a data access, the `PC` of a bad fetch, otherwise 0. -/
  info : Word
  deriving DecidableEq, Repr

/-- Output events (spec/47_host_operations.md R190, R191). -/
inductive Event where
  /-- One strobe of the display sink; it carries no data, the sink reads the video buffer. -/
  | refresh
  /-- One call of the sound sink with the byte of `FX18`. -/
  | beep (duration : Byte)
  deriving DecidableEq, Repr

/-- Which loop of `Update` runs (spec/47_host_operations.md R181): all due instructions first, then all due timer ticks. -/
inductive UpdatePhase where
  | instructions
  | timers
  deriving DecidableEq, Repr

/-- An `Update` call that has not returned yet (spec/47_host_operations.md R181; log entry 11). -/
structure UpdateCall where
  elapsed : Seconds
  ips : Nat
  phase : UpdatePhase
  deriving DecidableEq, Repr

/-- What the host may do (spec/47_host_operations.md R194). A key code has 4 bits: the host never sends another (D31, log
entry 17). -/
inductive HostMove where
  /-- `Reset()` (spec/70_reset_and_hazards.md R230). -/
  | reset
  /-- `LoadRom(bytes)` (spec/70_reset_and_hazards.md R232, R233). -/
  | loadRom (bytes : List Byte)
  /-- `Update(elapsed, ips)` (spec/47_host_operations.md R181). -/
  | update (elapsed : Seconds) (ips : Nat)
  /-- `ExecuteOne()` (spec/47_host_operations.md R193). -/
  | executeOne
  /-- `SetKeyDown(k)` (spec/47_host_operations.md R187). -/
  | setKeyDown (k : Nibble)
  /-- `SetKeyUp(k)` (spec/47_host_operations.md R188). -/
  | setKeyUp (k : Nibble)
  /-- The host makes no call: an `Update` in progress goes on by one action of its loops, an idle core holds all state
  (spec/60_exceptions.md R221; log entry 10). -/
  | wait
  deriving DecidableEq, Repr

/-- The state of the core, and beside it the model's own fields `cfg`, `draws`, `events` and `script` (INVENTORY.md, State). -/
structure State where
  /-- `V[0]` to `V[15]` (spec/10_state.md R20); `VF` is `V[15]` (R21). -/
  v : Vector Byte 16
  /-- `I` (R22). -/
  i : Word
  /-- `PC` (R23). -/
  pc : Word
  /-- `Stack[0 .. STACK_DEPTH-1]` (R24). -/
  stack : List Word
  /-- `SP`, the number of valid entries (R24). -/
  sp : Nat
  /-- `Delay` (R26). -/
  delay : Byte
  /-- `acc_i`, the instruction accumulator (R29). -/
  accI : Seconds
  /-- `acc_t`, the timer accumulator (R29). -/
  accT : Seconds
  /-- `Memory` (R27). -/
  mem : Memory
  /-- `Pixel` (R28). -/
  pixels : Grid
  /-- `Latch`, the keys now down, the most recent last (R30). -/
  latch : List Nibble
  /-- `Fault`, the fault latch (R31). -/
  fault : Option FaultRecord
  /-- The `Update` call in progress, if any (spec/47_host_operations.md R181; log entry 11). -/
  update : Option UpdateCall
  /-- The open parameters, constant through every run (log entry 5). -/
  cfg : Config
  /-- How many free values were drawn so far (log entry 13). -/
  draws : Nat
  /-- The output events so far, oldest first (log entry 27). -/
  events : List Event
  /-- The host's coming moves, first move first (log entry 10). -/
  script : List HostMove
  deriving DecidableEq, Repr

/-- Why a step stops with a fault. Nothing raises one: the spec's own faults are taken as it describes them, by setting the
fault latch in a next state (spec/60_exceptions.md R206; log entry 9), so the type has no constructor. -/
inductive Fault where
  deriving DecidableEq, Repr

/-- Why a step is refused. No instruction refuses; the constructors after the first are raised by host moves the spec gives no
transition for. -/
inductive Refusal where
  /-- Raised by an arm of `exec` whose instruction has no meaning yet; no arm is one. Safe: the run stops. -/
  | notModelled (mnemonic : String)
  /-- Raised by `LoadRom` of more than 3584 bytes: "refused: decision D24" (spec/70_reset_and_hazards.md R232; log entry 16).
  Safe: the run stops. -/
  | romTooLong
  /-- Raised by `Update` with a negative `elapsed`: no move of the host (spec/47_host_operations.md R194, D22; log entry 17).
  Safe: the run stops. -/
  | negativeElapsed
  /-- Raised by `Reset`, `LoadRom`, `Update`, `ExecuteOne` while an `Update` runs: "a model has no transition for overlapping
  operations" (spec/70_reset_and_hazards.md R240; log entry 17). Safe: the run stops. -/
  | overlappingOperation
  deriving DecidableEq, Repr

/-- The state after power-on with given parameters (spec/10_state.md R36, spec/70_reset_and_hazards.md R230, R231). -/
def State.resetWith (c : Config) : State where
  v := Vector.replicate 16 0x00
  i := 0x0000
  pc := 0x0200
  stack := List.replicate c.stackDepth 0x0000
  sp := 0
  delay := 0x00
  accI := 0
  accT := 0
  mem := []
  pixels := Vector.replicate 32 (Vector.replicate 64 false)
  latch := []
  fault := none
  update := none
  cfg := c
  draws := 0
  events := []
  script := []

/-- The machine right after power-on, the parameters at the spec's defaults. -/
def State.reset : State :=
  State.resetWith Config.default

end Sys2Proof.Machine
end

