-- ==== Sys2Proof/Machine/Ops.lean ====
section
/-! DEFINITION. The named operations over memory, registers, call stack, video buffer, output events and free values, and
taking a fault, each written once. -/

namespace Sys2Proof.Machine

/-- What every operation of the core answers. -/
abbrev Result := Host.Outcome State Fault Refusal

/-! ## Memory (spec/20_memory.md) -/

/-- What an address no cell lists reads as: its content after reset (spec/10_state.md R36, spec/20_memory.md R51), the font
from 0x000 and 0x00 from 0x050 on (log entry 28). -/
def Memory.background (c : Config) (a : Nat) : Byte :=
  if h : a < 80 then c.font[a] else 0x00

/-- The byte at `a`. -/
def Memory.read (c : Config) : Memory → Nat → Byte
  | [], a => Memory.background c a
  | (b, w) :: rest, a => if a = b then w else Memory.read c rest a

/-- Put a cell before `rest`, unless it holds what an unlisted address reads as. -/
def Memory.cons (c : Config) (a : Nat) (w : Byte) (rest : Memory) : Memory :=
  if w = Memory.background c a then rest else (a, w) :: rest

/-- Write the byte at `a`, keeping the canonical form. -/
def Memory.write (c : Config) : Memory → Nat → Byte → Memory
  | [], a, w => Memory.cons c a w []
  | (b, u) :: rest, a, w =>
    if a < b then Memory.cons c a w ((b, u) :: rest)
    else if a = b then Memory.cons c a w rest
    else (b, u) :: Memory.write c rest a w

/-- Write consecutive bytes from `a` upward. -/
def Memory.writeList (c : Config) (m : Memory) (a : Nat) : List Byte → Memory
  | [] => m
  | w :: ws => Memory.writeList c (Memory.write c m a w) (a + 1) ws

/-- Every listed address is above `lo` and the addresses rise strictly. -/
def Memory.rising (lo : Nat) : Memory → Bool
  | [] => true
  | (b, _) :: rest => decide (lo ≤ b) && Memory.rising (b + 1) rest

/-- No cell holds what an unlisted address reads as, and no address is above 0xFFF (spec/20_memory.md R50). -/
def Memory.proper (c : Config) : Memory → Bool
  | [] => true
  | (b, u) :: rest =>
    decide (b ≤ 0xFFF) && decide (u ≠ Memory.background c b) && Memory.proper c rest

/-- The canonical form. -/
def Memory.wf (c : Config) (m : Memory) : Bool :=
  Memory.rising 0 m && Memory.proper c m

/-- The bounds check of an access to the `count` bytes from `base`: the lowest of the addresses that is above 0xFFF, if any
(spec/20_memory.md R52, spec/44_display.md R152, spec/46_index_memory.md R172, R173; decision D8, log entry 8). Addresses are
unbounded sums. -/
def outOfRange (base count : Nat) : Option Nat :=
  if count = 0 then none
  else if base + count - 1 ≤ 0xFFF then none
  else some (max base 0x1000)

/-- `Memory[a]`, for an address the bounds check has passed. -/
def State.byteAt (s : State) (a : Nat) : Byte :=
  Memory.read s.cfg s.mem a

/-- `MemRead(a, 1)`: none is the `AddressOutOfRange` case (spec/20_memory.md R52). -/
def State.memRead (s : State) (a : Nat) : Option Byte :=
  if a ≤ 0xFFF then some (s.byteAt a) else none

/-- `MemRead(PC, 2)`, big-endian, as memory is at this moment, odd `PC` included (spec/20_memory.md R52 to R54, R60). -/
def State.fetch (s : State) : Option Word :=
  match outOfRange s.pc.toNat 2 with
  | some _ => none
  | none => some (wordOfBytes (s.byteAt s.pc.toNat) (s.byteAt (s.pc.toNat + 1)))

def State.setMem (s : State) (m : Memory) : State :=
  { s with mem := m }

/-- `MemWrite(a, 1, w)` for consecutive bytes the bounds check has passed. -/
def State.storeBytes (s : State) (a : Nat) (ws : List Byte) : State :=
  s.setMem (Memory.writeList s.cfg s.mem a ws)

/-! ## Registers (spec/10_state.md) -/

/-- `V[x]`: every selector names a register (spec/10_state.md R20). -/
def State.reg (s : State) (x : Nibble) : Byte :=
  s.v[x.toNat]'(x.isLt)

def State.setRegs (s : State) (v : Vector Byte 16) : State :=
  { s with v := v }

/-- `V[x] <- b`. -/
def State.setReg (s : State) (x : Nibble) (b : Byte) : State :=
  s.setRegs (s.v.set x.toNat b x.isLt)

/-- `I <- w`, all 16 bits (spec/10_state.md R22). -/
def State.setI (s : State) (w : Word) : State :=
  { s with i := w }

/-- `pc <- w`, no alignment or range check (spec/10_state.md R23). -/
def State.setPc (s : State) (w : Word) : State :=
  { s with pc := w }

def State.setDelay (s : State) (b : Byte) : State :=
  { s with delay := b }

def State.setAccI (s : State) (t : Seconds) : State :=
  { s with accI := t }

def State.setAccT (s : State) (t : Seconds) : State :=
  { s with accT := t }

def State.setLatch (s : State) (l : List Nibble) : State :=
  { s with latch := l }

def State.setFault (s : State) (f : Option FaultRecord) : State :=
  { s with fault := f }

def State.setUpdate (s : State) (u : Option UpdateCall) : State :=
  { s with update := u }

def State.setScript (s : State) (ms : List HostMove) : State :=
  { s with script := ms }

/-- The fetch's side effect on `PC` (spec/40_execute_one.md R102): the meanings of instructions begin with it. -/
def State.advance (s : State) : State :=
  s.setPc (s.pc + 2)

/-- `skip`, on the already-advanced `PC`, when the condition holds (spec/40_execute_one.md R107). -/
def State.skipIf (s : State) (b : Bool) : State :=
  if b then s.setPc (s.pc + 2) else s

/-! ## Call stack (spec/10_state.md R24, R25) -/

/-- `Stack[j]`. -/
def State.slot (s : State) (j : Nat) : Word :=
  s.stack.getD j 0x0000

def State.setStack (s : State) (st : List Word) (sp : Nat) : State :=
  { s with stack := st, sp := sp }

/-- `Push(w)`, none is the `StackOverflow` case, checked before any write. -/
def State.push (s : State) (w : Word) : Option State :=
  if s.sp = s.cfg.stackDepth then none
  else some (s.setStack (s.stack.set s.sp w) (s.sp + 1))

/-- `Pop()`: the value and the state after, none is the `StackUnderflow` case; the slot keeps its value (D4, log entry 30). -/
def State.pop (s : State) : Option (Word × State) :=
  if s.sp = 0 then none
  else some (s.slot (s.sp - 1), s.setStack s.stack (s.sp - 1))

/-! ## Video buffer (spec/10_state.md R28, spec/44_display.md) -/

/-- `Pixel[x, y]`. -/
def Grid.get (g : Grid) (x : Fin 64) (y : Fin 32) : Bool :=
  g[y][x]

/-- `Pixel[x, y] <- b`. -/
def Grid.put (g : Grid) (x : Fin 64) (y : Fin 32) (b : Bool) : Grid :=
  g.set y (g[y].set x b)

/-- All cells off. -/
def Grid.blank : Grid :=
  Vector.replicate 32 (Vector.replicate 64 false)

def State.setPixels (s : State) (g : Grid) : State :=
  { s with pixels := g }

/-- `Pixel[x, y]` of a state. -/
def State.pixel (s : State) (x : Fin 64) (y : Fin 32) : Bool :=
  Grid.get s.pixels x y

/-- The three results the blit of spec/44_display.md R151 carries along. -/
structure Blit where
  grid : Grid
  collision : Bool
  changed : Bool
  deriving DecidableEq, Repr

/-- Bit of sprite column `col` of a row byte: bit 7 is the leftmost pixel (spec/44_display.md R153, D18, log entry 24). -/
def spriteBit (b : Byte) (col : Nat) : Bool :=
  b.getLsbD (7 - col)

/-- Column of the screen a sprite column lands in, and row likewise: both wrap (spec/44_display.md R154). -/
def screenX (x0 : Byte) (col : Nat) : Fin 64 :=
  Fin.ofNat 64 (x0.toNat + col)

def screenY (y0 : Byte) (row : Nat) : Fin 32 :=
  Fin.ofNat 32 (y0.toNat + row)

/-- One sprite pixel: `new = old XOR spriteBit`, collision when both are 1, changed when the bit is 1 (R151). -/
def blitPixel (k : Blit) (x : Fin 64) (y : Fin 32) (bit : Bool) : Blit where
  grid := Grid.put k.grid x y (Bool.xor (Grid.get k.grid x y) bit)
  collision := k.collision || (Grid.get k.grid x y && bit)
  changed := k.changed || bit

/-- One sprite row, columns 0 to 7. -/
def blitRow (x0 : Byte) (y : Fin 32) (b : Byte) (k : Blit) : Blit :=
  (List.range 8).foldl (fun k col => blitPixel k (screenX x0 col) y (spriteBit b col)) k

/-- The whole sprite, `rows` from the top, drawn at (`x0`, `y0`) on `g`. -/
def blitSprite (x0 y0 : Byte) (rows : List Byte) (g : Grid) : Blit :=
  rows.zipIdx.foldl (fun k rowByte => blitRow x0 (screenY y0 rowByte.2) rowByte.1 k)
    { grid := g, collision := false, changed := false }

/-! ## Output events and free values -/

/-- `emit e`, when the condition holds (spec/00_scope.md R8). -/
def State.emitIf (s : State) (b : Bool) (e : Event) : State :=
  if b then { s with events := s.events ++ [e] } else s

/-- Advance the number of the draw, so that the next free value is another one (log entry 13). -/
def State.nextDraw (s : State) : State :=
  { s with draws := s.draws + 1 }

/-! ## Taking a fault (spec/60_exceptions.md R200, R206) -/

/-- The record of a fault at the instruction at `PC`: `set` is `word[15:12]`; `sub` is there for cause 1 only (R200, R201). -/
def State.faultRecord (s : State) (word : Word) (cause : Cause) (info : Word) : FaultRecord where
  cause := cause
  pc := s.pc
  word := word
  set := setField word
  sub := if cause = .unimplementedOpcode then subSelector word else none
  info := info

/-- `raise`: taken on the state BEFORE the step, whose `PC` is still the address of the faulting instruction, so that every
change of the step is discarded and the latch is the only thing written (spec/60_exceptions.md R206, spec/40_execute_one.md
R104; decision D12, log entry 9). -/
def State.raise (s : State) (word : Word) (cause : Cause) (info : Word) : Result :=
  .next (s.setFault (some (s.faultRecord word cause info)))

end Sys2Proof.Machine
end

