-- ==== Sys2Proof/Machine/Operands.lean ====
section
/-! DEFINITION. The operand forms: immediates, the index register's effective addresses, the shift's source, the latch queries,
the sprite's rows, the decimal digits and the loaded register file. -/

namespace Sys2Proof.Machine

/-- `NNN` zero-extended to 16 bits (spec/30_encoding.md R75). -/
def target (nnn : Addr12) : Word :=
  nnn.setWidth 16

/-- A byte zero-extended to 16 bits. -/
def zext16 (b : Byte) : Word :=
  b.setWidth 16

/-- The effective address `I + k`, an unbounded sum (spec/20_memory.md R52, spec/46_index_memory.md R174). -/
def State.indexed (s : State) (k : Nat) : Nat :=
  s.i.toNat + k

/-- The bounds check of the `count` bytes from `I`. -/
def State.indexedOutOfRange (s : State) (count : Nat) : Option Nat :=
  outOfRange s.i.toNat count

/-- `src` of `8XY6`: `V[X]`, or `V[Y]` under `SHR_SOURCE = VY` (spec/43_alu.md R136, D15, log entry 3). -/
def State.shrOperand (s : State) (x y : Nibble) : Byte :=
  match s.cfg.shrSource with
  | .vx => s.reg x
  | .vy => s.reg y

/-- `KeyPressed(k)`, `k` any byte: membership, false above 0xF (spec/47_host_operations.md R189). -/
def State.keyPressed (s : State) (k : Byte) : Bool :=
  s.latch.any (fun key => key.setWidth 8 == k)

/-- `AnyKey()` and `MostRecentKey()` in one: the last key of the latch, none when it is empty (spec/47_host_operations.md
R189). -/
def State.mostRecentKey (s : State) : Option Nibble :=
  s.latch.getLast?

/-- The `n` row bytes of the sprite at `I`, top row first (spec/44_display.md R151). -/
def State.spriteRows (s : State) (n : Nibble) : List Byte :=
  (List.range n.toNat).map (fun row => s.byteAt (s.indexed row))

/-- The three decimal digits, hundreds first (spec/46_index_memory.md R172). -/
def digits (b : Byte) : List Byte :=
  [BitVec.ofNat 8 (b.toNat / 100), BitVec.ofNat 8 (b.toNat / 10 % 10), BitVec.ofNat 8 (b.toNat % 10)]

/-- The register file after `V[0..X]` was loaded from `Memory[I..I+X]` (spec/46_index_memory.md R173). -/
def State.loadedRegs (s : State) (x : Nibble) : Vector Byte 16 :=
  Vector.ofFn fun k => if k.val ≤ x.toNat then s.byteAt (s.indexed k.val) else s.v[k]

end Sys2Proof.Machine
end

