-- ==== Sys2Proof/Machine/Flags.lean ====
section
/-! DEFINITION. The values `VF` receives as a side effect (spec/10_state.md R21) and the 8-bit results beside them. `VF` is an
8-bit register: a flag is the byte 0x01 or 0x00. -/

namespace Sys2Proof.Machine

/-- The selector of `VF`. -/
def vf : Nibble :=
  0xF

/-- A flag as the byte `VF` holds. -/
def flagByte (b : Bool) : Byte :=
  if b then 0x01 else 0x00

/-- `8XY4`: 1 exactly when the unsigned sum exceeds 255 (spec/43_alu.md R134). -/
def carryOut (a b : Byte) : Bool :=
  decide (a.toNat + b.toNat > 255)

/-- `8XY5` and, operands exchanged, `8XY7`: 1 exactly when the minuend is strictly greater (spec/43_alu.md R135, R137; C1,
D14, log entry 21). -/
def greater (a b : Byte) : Bool :=
  decide (a.toNat > b.toNat)

/-- `8XY6`: the bit shifted out (spec/43_alu.md R136). -/
def droppedBit (a : Byte) : Bool :=
  a.getLsbD 0

/-- `s mod 256` of `V[X] + V[Y]` (spec/43_alu.md R134), and the wrapped sum of `7XNN` (spec/42_load_imm.md R121). -/
def sumByte (a b : Byte) : Byte :=
  BitVec.ofNat 8 ((a.toNat + b.toNat) % 256)

/-- `(a - b) mod 256` (spec/43_alu.md R135). -/
def differenceByte (a b : Byte) : Byte :=
  BitVec.ofNat 8 ((a.toNat + 256 - b.toNat) % 256)

/-- `src div 2` (spec/43_alu.md R136). -/
def halfByte (a : Byte) : Byte :=
  BitVec.ofNat 8 (a.toNat / 2)

/-- Result to `V[X]` first, flag to `VF` second, so that with `X = 0xF` the flag stays (spec/43_alu.md R138 d; decision D13,
log entry 20). -/
def State.setRegAndFlag (s : State) (x : Nibble) (result : Byte) (flag : Bool) : State :=
  (s.setReg x result).setReg vf (flagByte flag)

end Sys2Proof.Machine
end

