-- ==== Sys2Proof/Machine/Alu.lean ====
section
/-! DEFINITION. The register-register family (spec/43_alu.md R130 to R138): operands are read from the state before the step,
operations 0 to 3 leave `VF` alone, operations 4 to 7 write the result and then `VF`. -/

namespace Sys2Proof.Machine

/-- `8XY0`, R130. -/
def execLdReg (x y : Nibble) (s : State) : Result :=
  .next (s.advance.setReg x (s.reg y))

/-- `8XY1`, R131. -/
def execOrReg (x y : Nibble) (s : State) : Result :=
  .next (s.advance.setReg x (s.reg x ||| s.reg y))

/-- `8XY2`, R132. -/
def execAndReg (x y : Nibble) (s : State) : Result :=
  .next (s.advance.setReg x (s.reg x &&& s.reg y))

/-- `8XY3`, R133. -/
def execXorReg (x y : Nibble) (s : State) : Result :=
  .next (s.advance.setReg x (s.reg x ^^^ s.reg y))

/-- `8XY4`, R134. -/
def execAddReg (x y : Nibble) (s : State) : Result :=
  .next (s.advance.setRegAndFlag x (sumByte (s.reg x) (s.reg y)) (carryOut (s.reg x) (s.reg y)))

/-- `8XY5`, R135. -/
def execSubReg (x y : Nibble) (s : State) : Result :=
  .next (s.advance.setRegAndFlag x (differenceByte (s.reg x) (s.reg y)) (greater (s.reg x) (s.reg y)))

/-- `8XY6`, R136. -/
def execShrReg (x y : Nibble) (s : State) : Result :=
  .next (s.advance.setRegAndFlag x (halfByte (s.shrOperand x y)) (droppedBit (s.shrOperand x y)))

/-- `8XY7`, R137. -/
def execSubnReg (x y : Nibble) (s : State) : Result :=
  .next (s.advance.setRegAndFlag x (differenceByte (s.reg y) (s.reg x)) (greater (s.reg y) (s.reg x)))

end Sys2Proof.Machine
end

