-- ==== Sys2Proof/Machine/Display.lean ====
section
/-! DEFINITION. CLS and DRW (spec/44_display.md). `s` is the state before the step. -/

namespace Sys2Proof.Machine

/-- `00E0`, R150. -/
def execCls (s : State) : Result :=
  .next ((s.advance.setPixels Grid.blank).emitIf s.cfg.clsRefresh .refresh)

/-- The blit of `DXYN` on a state: coordinates, row bytes and pixels are those before the step (R151, R152, D19, log entry 25). -/
def State.drawn (s : State) (x y n : Nibble) : Blit :=
  blitSprite (s.reg x) (s.reg y) (s.spriteRows n) s.pixels

/-- `DXYN`, R151: every row address is checked before the first write; pixels, then `VF`, then at most one strobe (R156). -/
def execDrw (x y n : Nibble) (s : State) : Result :=
  match s.indexedOutOfRange n.toNat with
  | some a => s.raise (Instr.drw x y n).encode .addressOutOfRange (BitVec.ofNat 16 a)
  | none =>
    .next (((s.advance.setPixels (s.drawn x y n).grid).setReg vf (flagByte (s.drawn x y n).collision)).emitIf
      ((s.drawn x y n).changed || s.cfg.drwRefreshAlways) .refresh)

end Sys2Proof.Machine
end

