-- ==== Sys2Proof/Machine/Flow.lean ====
section
/-! DEFINITION. Control transfer (spec/41_flow.md): RET, JP, CALL, SE, SNE. In every meaning `s` is the state before the step,
`s.pc` the address of the instruction, and `s.advance` the state the rule's pseudocode starts from. -/

namespace Sys2Proof.Machine

/-- `00EE`, R110. -/
def execRet (s : State) : Result :=
  match s.advance.pop with
  | none => s.raise Instr.ret.encode .stackUnderflow 0
  | some (w, t) => .next (t.setPc w)

/-- `1NNN`, R111. -/
def execJp (nnn : Addr12) (s : State) : Result :=
  .next (s.advance.setPc (target nnn))

/-- `2NNN`, R112: the pushed value is the advanced `PC`. -/
def execCall (nnn : Addr12) (s : State) : Result :=
  match s.advance.push s.advance.pc with
  | none => s.raise (Instr.call nnn).encode .stackOverflow 0
  | some t => .next (t.setPc (target nnn))

/-- `3XNN`, R113. -/
def execSeImm (x : Nibble) (nn : Byte) (s : State) : Result :=
  .next (s.advance.skipIf (s.reg x == nn))

/-- `4XNN`, R114. -/
def execSneImm (x : Nibble) (nn : Byte) (s : State) : Result :=
  .next (s.advance.skipIf (s.reg x != nn))

/-- `9XY0`, R115. -/
def execSneReg (x y : Nibble) (s : State) : Result :=
  .next (s.advance.skipIf (s.reg x != s.reg y))

end Sys2Proof.Machine
end

