-- ==== Sys2Proof/Machine/IndexMemory.lean ====
section
/-! DEFINITION. Index register and memory instructions (spec/46_index_memory.md). `s` is the state before the step; `I` is
changed by the first two only (R172, R173, D17, log entry 23). -/

namespace Sys2Proof.Machine

/-- `FX1E`, R170: modulo 65536, no flag (D16, log entry 22). -/
def execAddI (x : Nibble) (s : State) : Result :=
  .next (s.advance.setI (BitVec.ofNat 16 ((s.i.toNat + (s.reg x).toNat) % 65536)))

/-- `FX29`, R171: the whole byte times 5. -/
def execLdF (x : Nibble) (s : State) : Result :=
  .next (s.advance.setI (BitVec.ofNat 16 ((s.reg x).toNat * 5)))

/-- `FX33`, R172: the three addresses are checked before any write. -/
def execBcd (x : Nibble) (s : State) : Result :=
  match s.indexedOutOfRange 3 with
  | some a => s.raise (Instr.bcd x).encode .addressOutOfRange (BitVec.ofNat 16 a)
  | none => .next (s.advance.storeBytes (s.indexed 0) (digits (s.reg x)))

/-- `FX65`, R173: the `X + 1` addresses are checked before any write. -/
def execLdRegs (x : Nibble) (s : State) : Result :=
  match s.indexedOutOfRange (x.toNat + 1) with
  | some a => s.raise (Instr.ldRegs x).encode .addressOutOfRange (BitVec.ofNat 16 a)
  | none => .next (s.advance.setRegs (s.loadedRegs x))

end Sys2Proof.Machine
end

