-- ==== Sys2Proof/Machine/KeysTimersSound.lean ====
section
/-! DEFINITION. Key, timer and sound instructions (spec/45_keys_timers_sound.md). `s` is the state before the step. -/

namespace Sys2Proof.Machine

/-- `EX9E`, R160: the whole byte of `V[X]` is the key tested. -/
def execSkp (x : Nibble) (s : State) : Result :=
  .next (s.advance.skipIf (s.keyPressed (s.reg x)))

/-- `EXA1`, R161. -/
def execSknp (x : Nibble) (s : State) : Result :=
  .next (s.advance.skipIf (!s.keyPressed (s.reg x)))

/-- `FX07`, R162. -/
def execLdVxDt (x : Nibble) (s : State) : Result :=
  .next (s.advance.setReg x s.delay)

/-- `FX0A`, R163: with no key down `PC` goes back by 2, to this instruction. -/
def execLdVxK (x : Nibble) (s : State) : Result :=
  match s.mostRecentKey with
  | none => .next (s.advance.setPc (s.advance.pc - 2))
  | some k => .next (s.advance.setReg x (k.setWidth 8))

/-- `FX15`, R164. -/
def execLdDtVx (x : Nibble) (s : State) : Result :=
  .next (s.advance.setDelay (s.reg x))

/-- `FX18`, R165: the sink is called on every execution. -/
def execSnd (x : Nibble) (s : State) : Result :=
  .next (s.advance.emitIf true (.beep (s.reg x)))

end Sys2Proof.Machine
end

