-- ==== Sys2Proof/Machine/LoadImm.lean ====
section
/-! DEFINITION. Immediate loads and add (spec/42_load_imm.md): LD, ADD, LD I, RND. `s` is the state before the step. -/

namespace Sys2Proof.Machine

/-- `6XNN`, R120. -/
def execLdImm (x : Nibble) (nn : Byte) (s : State) : Result :=
  .next (s.advance.setReg x nn)

/-- `7XNN`, R121: no flag. -/
def execAddImm (x : Nibble) (nn : Byte) (s : State) : Result :=
  .next (s.advance.setReg x (sumByte (s.reg x) nn))

/-- `ANNN`, R122. -/
def execLdI (nnn : Addr12) (s : State) : Result :=
  .next (s.advance.setI (target nnn))

/-- `CXNN` with the byte `r` drawn, R123. -/
def rndWith (r : Byte) (x : Nibble) (nn : Byte) (s : State) : State :=
  s.advance.setReg x (r &&& nn)

/-- `CXNN`, R123: the draw is a free value (log entry 13). -/
def execRnd (x : Nibble) (nn : Byte) (s : State) : Result :=
  .next (rndWith (Config.randomByte s.draws) x nn s).nextDraw

end Sys2Proof.Machine
end

