-- ==== Sys2Proof/Machine/Execute.lean ====
section
/-! DEFINITION. The core's atomic step `ExecuteOne` (spec/40_execute_one.md R100) and the `Update` scheduler over it
(spec/47_host_operations.md R181 to R185). -/

namespace Sys2Proof.Machine

/-- `ExecuteOne()` (R100): nothing while a fault is latched; the fetch check first, then dispatch, then the instruction
(spec/60_exceptions.md R211). It touches neither accumulator and causes no timer tick (spec/47_host_operations.md R193). -/
def executeOne (s : State) : Result :=
  match s.fault with
  | some _ => .next s
  | none =>
    match s.fetch with
    | none => s.raise 0 .addressOutOfRange s.pc
    | some w =>
      match decodeWord w with
      | .error _ => s.raise w .unimplementedOpcode 0
      | .ok i => exec i s

/-- Seconds per instruction, `1 / max(1, ips)` (spec/47_host_operations.md R182). -/
def interval (ips : Nat) : Seconds :=
  1 / ((max 1 ips : Nat) : Rat)

/-- Seconds per timer tick (spec/47_host_operations.md R183). -/
def timerInterval : Seconds :=
  1 / 60

/-- One timer tick with its accounting (spec/47_host_operations.md R183): a tick at 0 still consumes its 1/60 second. -/
def State.tick (s : State) : State :=
  (if s.delay = 0 then s else s.setDelay (s.delay - 1)).setAccT (s.accT - timerInterval)

/-- The accumulators after a fault inside `Update` are unspecified: free values (spec/47_host_operations.md R185, D23, U11;
log entry 14). The call has returned. -/
def State.abortUpdate (s : State) : State :=
  (((s.setAccI (Config.freeSeconds s.draws)).setAccT (Config.freeSeconds (s.draws + 1))).setUpdate none).nextDraw.nextDraw

/-- `Update(elapsed, ips)` up to its first loop test (R181): a faulted core does nothing (R185). -/
def State.beginUpdate (s : State) (elapsed : Seconds) (ips : Nat) : State :=
  match s.fault with
  | some _ => s
  | none =>
    (s.setAccI (s.accI + elapsed)).setUpdate (some { elapsed := elapsed, ips := ips, phase := .instructions })

/-- After the budget tick's `ExecuteOne` returned: end the call on a fault, else subtract the interval (R181, R182). -/
def State.afterTick (s : State) (iv : Seconds) : State :=
  match s.fault with
  | some _ => s.abortUpdate
  | none => s.setAccI (s.accI - iv)

/-- `f` on the next state; a stop stays as it is. -/
def thenNext (r : Result) (f : State → State) : Result :=
  match r with
  | .next s => .next (f s)
  | .fault e => .fault e
  | .refused e => .refused e

/-- One action of the loops of an `Update` in progress (R181): one budget tick while one is due, else on to the timer loop with
`elapsed` added; one timer tick while one is due, else the call returns. -/
def updateAction (c : UpdateCall) (s : State) : Result :=
  match c.phase with
  | .instructions =>
    if interval c.ips ≤ s.accI then thenNext (executeOne s) (fun t => t.afterTick (interval c.ips))
    else .next ((s.setAccT (s.accT + c.elapsed)).setUpdate (some { c with phase := .timers }))
  | .timers =>
    if timerInterval ≤ s.accT then .next s.tick else .next (s.setUpdate none)

/-! ## The whole call at once (the closed forms of R182 and R183) -/

/-- How often a loop `while acc >= step: ...; acc <- acc - step` runs from `acc`: `floor(acc / step)` (R182, R183). -/
def dueCount (acc step : Seconds) : Nat :=
  (acc / step).floor.toNat

/-- `n` budget ticks, ended by a fault (R181, R185). -/
def instructionLoop (iv : Seconds) : Nat → State → Result
  | 0, s => .next s
  | n + 1, s =>
    match executeOne s with
    | .next t =>
      match t.fault with
      | some _ => .next t.abortUpdate
      | none => instructionLoop iv n (t.setAccI (t.accI - iv))
    | .fault e => .fault e
    | .refused e => .refused e

/-- `m` timer ticks (R183). -/
def timerLoop : Nat → State → State
  | 0, s => s
  | m + 1, s => timerLoop m s.tick

/-- The timer half of a call: `acc_t <- acc_t + elapsed`, then every due tick (R183). -/
def State.timerPart (s : State) (elapsed : Seconds) : State :=
  timerLoop (dueCount (s.accT + elapsed) timerInterval) (s.setAccT (s.accT + elapsed))

/-- `Update(elapsed, ips)` as one transaction (R181): all due instructions, then all due timer ticks (R184), no cap on either
(U24). The step of the model takes the same call action by action. -/
def State.updateWhole (s : State) (elapsed : Seconds) (ips : Nat) : Result :=
  match s.fault with
  | some _ => .next s
  | none =>
    thenNext
      (instructionLoop (interval ips) (dueCount (s.accI + elapsed) (interval ips)) (s.setAccI (s.accI + elapsed)))
      (fun t =>
        match t.fault with
        | some _ => t
        | none => t.timerPart elapsed)

end Sys2Proof.Machine
end

