-- ==== Sys2Proof/Machine/HostOps.lean ====
section
/-! DEFINITION. The host's operations (spec/47_host_operations.md R194; spec/70_reset_and_hazards.md R230 to R233) and the
choice of the next transition. -/

namespace Sys2Proof.Machine

/-- `Reset()` (spec/70_reset_and_hazards.md R230): every piece of state but the latch to its reset value, no event emitted. The
parameters and the model's own fields are not the core's to reset. -/
def State.resetOp (s : State) : State :=
  { State.resetWith s.cfg with
    latch := s.latch, draws := s.draws, events := s.events, script := s.script }

/-- Where a program is loaded (spec/00_scope.md R5). -/
def programBase : Nat :=
  0x200

/-- The longest program that fits (spec/00_scope.md R5, D24). -/
def romMax : Nat :=
  3584

/-- `LoadRom` of a program that fits: reset, then the bytes from 0x200 (spec/70_reset_and_hazards.md R232). -/
def State.loadProgram (s : State) (bytes : List Byte) : State :=
  s.resetOp.storeBytes programBase bytes

/-- The keys of a list without repeats. -/
def distinctKeys : List Nibble → List Nibble
  | [] => []
  | k :: ks => k :: (distinctKeys ks).filter (fun j => j != k)

/-- Memory with an unspecified byte at every address. -/
def freeMemory (c : Config) (k : Nat) : Memory :=
  Memory.writeList c [] 0 ((List.range 4096).map (Config.freeByte k))

/-- `LoadRom` of zero bytes (spec/70_reset_and_hazards.md R233): cause 5 is latched, "all other state is unspecified until the
next successful `LoadRom` or `Reset`", every piece of it a free value of its own type and range (log entry 15). -/
def State.invalidRom (s : State) : State where
  v := Config.freeRegisters s.draws
  i := Config.freeWord s.draws 0
  pc := Config.freeWord s.draws 1
  stack := (List.range s.cfg.stackDepth).map (fun j => Config.freeWord s.draws (j + 2))
  sp := Config.freeCount s.draws % (s.cfg.stackDepth + 1)
  delay := Config.freeByte s.draws 4096
  accI := Config.freeSeconds s.draws
  accT := Config.freeSeconds (s.draws + 1)
  mem := freeMemory s.cfg s.draws
  pixels := Config.freePixels s.draws
  latch := distinctKeys (Config.freeKeys s.draws)
  fault := some { cause := .invalidRom, pc := 0x0200, word := 0, set := 0, sub := none, info := 0 }
  update := none
  cfg := s.cfg
  draws := s.draws + 2
  events := s.events
  script := s.script

/-- `LoadRom(bytes)` (spec/70_reset_and_hazards.md R232, R233). -/
def State.loadRom (s : State) (bytes : List Byte) : Result :=
  if bytes = [] then .next s.invalidRom
  else if bytes.length ≤ romMax then .next (s.loadProgram bytes)
  else .refused .romTooLong

/-- `SetKeyDown(k)`: `k` becomes the most recent key (spec/47_host_operations.md R187). -/
def State.keyDown (s : State) (k : Nibble) : State :=
  s.setLatch (s.latch.filter (fun j => j != k) ++ [k])

/-- `SetKeyUp(k)`: `k` removed, the order of the rest kept (spec/47_host_operations.md R188). -/
def State.keyUp (s : State) (k : Nibble) : State :=
  s.setLatch (s.latch.filter (fun j => j != k))

/-- An operation that may not overlap an `Update` (spec/70_reset_and_hazards.md R240; log entry 17). -/
def State.unlessUpdating (s : State) (r : Result) : Result :=
  match s.update with
  | some _ => .refused .overlappingOperation
  | none => r

/-- One move of the host (spec/47_host_operations.md R194). Key events fall between any two instructions of an `Update` too
(spec/70_reset_and_hazards.md R241). -/
def hostMove (m : HostMove) (s : State) : Result :=
  match m with
  | .reset => s.unlessUpdating (.next s.resetOp)
  | .loadRom bytes => s.unlessUpdating (s.loadRom bytes)
  | .update elapsed ips =>
    s.unlessUpdating (if 0 ≤ elapsed then .next (s.beginUpdate elapsed ips) else .refused .negativeElapsed)
  | .executeOne => s.unlessUpdating (executeOne s)
  | .setKeyDown k => .next (s.keyDown k)
  | .setKeyUp k => .next (s.keyUp k)
  | .wait =>
    match s.update with
    | some c => updateAction c s
    | none => .next s

/-- The next transition: the host's next move; with no move listed, the `Update` in progress goes on, and with none in progress
the host calls `ExecuteOne` (log entry 10). -/
def transition (s : State) : Result :=
  match s.script with
  | m :: rest => hostMove m (s.setScript rest)
  | [] =>
    match s.update with
    | some c => updateAction c s
    | none => executeOne s

/-! ## Placing an instruction for the host's question about the opcode table -/

/-- The address the next fetch reads, brought back to 0x200 where no fetch is possible. -/
def State.fetchAddress (s : State) : Word :=
  match outOfRange s.pc.toNat 2 with
  | none => s.pc
  | some _ => 0x0200

/-- A word placed where the next step fetches, with nothing pending that would run first (log entry 29). -/
def State.withWordAtPc (s : State) (w : Word) : State :=
  ((((s.setPc s.fetchAddress).storeBytes s.fetchAddress.toNat [highByte w, lowByte w]).setFault none).setUpdate
    none).setScript []

end Sys2Proof.Machine
end

