-- ==== Sys2Proof/Machine/Step.lean ====
section
/-! DEFINITION. The step of the machine: one transition, the core's or the host's. -/

namespace Sys2Proof.Machine

/-- One step: the host's next move, one action of an `Update` in progress, or one `ExecuteOne`. -/
def step (s : State) : Host.Outcome State Fault Refusal :=
  transition s

/-- `s` with the instruction whose bits are `w` (as spec/opcode_table.json numbers them) stored where `step` fetches next. -/
def State.withFetchWord (s : State) (nbits w : Nat) : State :=
  s.withWordAtPc (tableWord nbits w)

end Sys2Proof.Machine
end

