-- ==== Sys2Proof/Safety.lean ====
section
/-! DEFINITION. What counts as a safe run, and the words the claims are stated in: invariants of the state, what an instruction
may leave unchanged, and which pixels a sprite touches. -/

namespace Sys2Proof.Machine

/-- No fault is latched: "every claim about a program takes 'no fault latched' as a premise or proves it"
(spec/60_exceptions.md R207). -/
def State.healthy (s : State) : Prop :=
  s.fault = none

/-- `k` steps run to a state with no fault latched, with no stop on the way. -/
def SafeRun (k : Nat) (s : State) : Prop :=
  ∃ t, Host.Core.run Sys2Proof.core k s = .next t ∧ t.healthy

/-- The seconds of a call in progress are not negative (spec/47_host_operations.md R181). -/
def elapsedNonneg : Option UpdateCall → Bool
  | none => true
  | some c => decide (0 ≤ c.elapsed)

/-- The form of the state: the parameters are legal, memory is in its canonical form, the stack has STACK_DEPTH slots and "`SP`
never exceeds stack capacity" (spec/10_state.md R24), the latch holds no key twice (R30), the accumulators are not negative
(R29), and a faulted core has no `Update` in progress (spec/47_host_operations.md R185). -/
abbrev State.Sound (s : State) : Prop :=
  s.cfg.wellFormed = true ∧ Memory.wf s.cfg s.mem = true ∧ s.stack.length = s.cfg.stackDepth ∧
    s.sp ≤ s.cfg.stackDepth ∧ s.latch.Nodup ∧ 0 ≤ s.accI ∧ 0 ≤ s.accT ∧ elapsedNonneg s.update = true ∧
    (s.fault ≠ none → s.update = none)

/-- Where `PC` and the valid return addresses can be while no fault is latched (spec/10_state.md R23, spec/41_flow.md R110). -/
def State.InReach (s : State) : Prop :=
  s.fault = none → s.pc.toNat ≤ 0x1002 ∧ ∀ j, j < s.sp → (s.slot j).toNat ≤ 0x1000

/-- How far the accumulators can be behind while no fault is latched (spec/10_state.md R29): `acc_t < 1/60` between calls and
until the timer loop starts, `acc_i` below the interval of the call once its instruction loop is done. -/
def State.ClockBounded (s : State) : Prop :=
  s.fault = none →
    match s.update with
    | none => s.accT < 1 / 60
    | some c =>
      match c.phase with
      | .instructions => s.accT < 1 / 60
      | .timers => s.accI < interval c.ips

/-- The kinds of state beside `V` and `PC` that a frame names. -/
inductive Part where
  | index
  | stack
  | delay
  | clock
  | memory
  | pixels
  | latch
  | fault
  | update
  | parameters
  | draws
  | events
  | script
  deriving DecidableEq, Repr

/-- A part is the same in two states; memory is compared byte by byte, the screen pixel by pixel. -/
def Same (p : Part) (s t : State) : Prop :=
  match p with
  | .index => t.i = s.i
  | .stack => t.stack = s.stack ∧ t.sp = s.sp
  | .delay => t.delay = s.delay
  | .clock => t.accI = s.accI ∧ t.accT = s.accT
  | .memory => ∀ a, t.byteAt a = s.byteAt a
  | .pixels => ∀ px py, t.pixel px py = s.pixel px py
  | .latch => t.latch = s.latch
  | .fault => t.fault = s.fault
  | .update => t.update = s.update
  | .parameters => t.cfg = s.cfg
  | .draws => t.draws = s.draws
  | .events => t.events = s.events
  | .script => t.script = s.script

/-- Every register but those listed and every part but those listed is the same; `PC` is not spoken of. -/
def Frame (regs : List Nibble) (parts : List Part) (s t : State) : Prop :=
  (∀ r, r ∉ regs → t.reg r = s.reg r) ∧ ∀ p, p ∉ parts → Same p s t

/-- A bit 1 of the sprite of `DXYN` lands on the cell (`px`, `py`): some row below `N` and some column below 8 with
`(V[X] + col) mod 64 = px`, `(V[Y] + row) mod 32 = py` and bit `7 - col` of `Memory[I + row]` set (spec/44_display.md R151,
R153, R154; the bit order is decision D18, log entry 24). -/
def State.SpriteCovers (s : State) (x y n : Nibble) (px : Fin 64) (py : Fin 32) : Prop :=
  ∃ row col, row < n.toNat ∧ col < 8 ∧ ((s.reg x).toNat + col) % 64 = px.val ∧ ((s.reg y).toNat + row) % 32 = py.val ∧
    (s.byteAt (s.i.toNat + row)).getLsbD (7 - col) = true

/-- The state in which the fault of a data access or of the call stack is latched and nothing else is changed: the record of
spec/60_exceptions.md R200 at the instruction `i` at `PC`. -/
def State.latched (s : State) (i : Instr) (cause : Cause) (info : Word) : State :=
  { s with fault := some { cause := cause, pc := s.pc, word := i.encode, set := setField i.encode, sub := none, info := info } }

/-- The next fetch or dispatch latches the record `f` and does nothing else: in `ExecuteOne` (spec/60_exceptions.md R206), in the
step of a host that single-steps with an empty `script` or by its move, and in the step of an `Update` with an instruction due,
which then ends (R206 d, spec/47_host_operations.md R185) with its accumulators free (log entry 14). -/
def State.StepLatches (s : State) (f : FaultRecord) : Prop :=
  executeOne s = .next (s.setFault (some f)) ∧
    (s.update = none →
      (s.script = [] → step s = .next (s.setFault (some f))) ∧
        ∀ rest, s.script = .executeOne :: rest → step s = .next ((s.setScript rest).setFault (some f))) ∧
    ∀ c, s.update = some c → c.phase = .instructions → interval c.ips ≤ s.accI →
      (s.script = [] → step s = .next (s.setFault (some f)).abortUpdate) ∧
        ∀ rest, s.script = .wait :: rest → step s = .next ((s.setScript rest).setFault (some f)).abortUpdate

end Sys2Proof.Machine
end

