-- ==== Sys2Proof/Certificates/Slice0/Obligations.lean ====
section
/-! DEFINITION. The statements for the provers. Each docstring names the rule of spec/ it formalises; where a clause rests on a
decision of the spec or on a choice of the model, it names the decision and the log entry (notes/assumptions/<n>.md). -/

open Sys2Proof Sys2Proof.Machine

/-! ## Encoding -/

/-- The bytes of any instruction, whatever follows them, decode to that instruction with every operand at every value, and nothing
but the two bytes is consumed (spec/30_encoding.md R70, R74; the operand types admit no ill-formed instruction). -/
def Obligations.EncodeThenDecode : Prop :=
  ∀ (i : Instr) (rest : List Byte), decodeBytes (i.encodeBytes ++ rest) = .ok (i, rest)

/-- A word that decodes is the encoding of what it decodes to: no two words mean the same instruction and no bit of an implemented
word is ignored (spec/30_encoding.md R72, R74). -/
def Obligations.DecodeThenEncode : Prop :=
  ∀ (w : Word) (i : Instr), decodeWord w = .ok i → i.encode = w

/-- The field `Set` is the word shifted right by 12, and the word is made again from its fields, for every word
(spec/30_encoding.md R72). -/
def Obligations.WordRoundTripsThroughFields : Prop :=
  ∀ w : Word,
    (opCode w).set.toNat = w.toNat >>> 12 ∧
      w.toNat = (opCode w).set.toNat * 4096 + (opCode w).x.toNat * 256 + (opCode w).y.toNat * 16 + (opCode w).n.toNat

/-- The rows of the opcode map are disjoint, and the decoder, which follows the dispatch structure of R76, gives an instruction
exactly for the words that select a row, and then an instruction of that row (spec/30_encoding.md R74, R76; the strict match of
families 0x0 and 0x9 is decision D10, log entry 19). -/
def Obligations.DecoderFollowsOpcodeMap : Prop :=
  (opcodeRows.length = 30 ∧
      opcodeRows.Pairwise fun r q => ∀ w : Word, ¬ (selectsRow w r = true ∧ selectsRow w q = true)) ∧
    ∀ w : Word,
      (∀ i, decodeWord w = .ok i →
          (i.rowMask, i.rowPattern) ∈ opcodeRows ∧ selectsRow w (i.rowMask, i.rowPattern) = true) ∧
        ((∃ row ∈ opcodeRows, selectsRow w row = true) → ∃ i, decodeWord w = .ok i)

/-- A word that selects no row is rejected by name with its `Set` and the sub-selector of its family: `NN` in families 0x0, 0xE,
0xF, `N` in families 0x8 and 0x9, none in 0x5 and 0xB (spec/30_encoding.md R77, spec/60_exceptions.md R201; families 0x9 and 0xE
by the spec's decision D11, log entry 9). -/
def Obligations.UnimplementedWordsAreRejectedByName : Prop :=
  ∀ w : Word, (∀ row ∈ opcodeRows, selectsRow w row = false) →
    decodeWord w = .error (.unimplemented (setField w)
      (if (setField w).toNat = 0x0 ∨ (setField w).toNat = 0xE ∨ (setField w).toNat = 0xF then some (nnField w)
       else if (setField w).toNat = 0x8 ∨ (setField w).toNat = 0x9 then some ((nField w).setWidth 8)
       else none))

/-- A few words written out from the patterns of R74 decode to the instructions they stand for, and words of well-known
instructions this hardware lacks do not decode (spec/30_encoding.md R74, R78; spec/95_test_vectors.md 2.1). -/
def Obligations.SampleWordsDecode : Prop :=
  decodeWord 0x00E0 = .ok .cls ∧ decodeWord 0x2345 = .ok (.call 0x345) ∧ decodeWord 0x6A3C = .ok (.ldImm 0xA 0x3C) ∧
    decodeWord 0x8F07 = .ok (.subnReg 0xF 0x0) ∧ decodeWord 0xD7A5 = .ok (.drw 0x7 0xA 0x5) ∧
    decodeWord 0xEF9E = .ok (.skp 0xF) ∧ decodeWord 0xF265 = .ok (.ldRegs 0x2) ∧
    decodeWord 0x5120 = .error (.unimplemented 0x5 none) ∧ decodeWord 0x812E = .error (.unimplemented 0x8 (some 0x0E)) ∧
    decodeWord 0xB300 = .error (.unimplemented 0xB none) ∧ decodeWord 0xF255 = .error (.unimplemented 0xF (some 0x55)) ∧
    decodeWord 0x01E0 = .error (.unimplemented 0x0 (some 0xE0)) ∧
    decodeWord 0x9121 = .error (.unimplemented 0x9 (some 0x01))

/-! ## The step and its faults -/

/-- When the two bytes at `PC` decode to an instruction and no fault is latched, the step is `exec` of it: when the host
single-steps with or without saying so, and, when an `Update` in progress has an instruction due, followed by the accounting of
that budget tick (spec/40_execute_one.md R100, R101, spec/47_host_operations.md R182, R193). Around `exec` the step adds only
the removal of the host's move from `script` and, inside `Update`, `afterTick`; the instruction itself advances `PC`. That an
empty `script` means single-stepping is the model's choice (log entry 10). -/
def Obligations.StepExecutesDecodedInstruction : Prop :=
  ∀ (s : State) (i : Instr),
    s.pc.toNat ≤ 0xFFE →
    decodeBytes [s.byteAt s.pc.toNat, s.byteAt (s.pc.toNat + 1)] = .ok (i, []) →
    s.fault = none →
      (s.script = [] → s.update = none → step s = exec i s) ∧
      (∀ rest, s.script = .executeOne :: rest → s.update = none → step s = exec i (s.setScript rest)) ∧
      (∀ c, s.script = [] → s.update = some c → c.phase = .instructions → interval c.ips ≤ s.accI →
        step s = thenNext (exec i s) (fun t => t.afterTick (interval c.ips))) ∧
      (∀ c rest, s.script = .wait :: rest → s.update = some c → c.phase = .instructions → interval c.ips ≤ s.accI →
        step s = thenNext (exec i (s.setScript rest)) (fun t => t.afterTick (interval c.ips)))

/-- A fetch that needs an address above 0xFFF latches the record of R200 and changes nothing else, `PC` included, in `ExecuteOne` and
in every step that runs it (spec/40_execute_one.md R101, spec/60_exceptions.md R200, R206, R211; decisions D8, D11, D12, log
entries 8 and 9). That an empty `script` means single-stepping is the model's choice (log entry 10); the accumulators of an ended
`Update` are free values (spec/47_host_operations.md R185, decision D23, log entry 14). -/
def Obligations.FetchOutsideMemoryLatchesFault : Prop :=
  ∀ s : State, s.fault = none → 0xFFE < s.pc.toNat →
    s.StepLatches { cause := .addressOutOfRange, pc := s.pc, word := 0, set := 0, sub := none, info := s.pc }

/-- A fetched word that selects no row latches the record of R200 with the word, its `Set` and the sub-selector of R201, and
changes nothing else, `PC` included, in `ExecuteOne` and in every step that runs it (spec/30_encoding.md R77,
spec/60_exceptions.md R200, R201, R206; decisions D11, D12, log entry 9). That an empty `script` means single-stepping is the
model's choice (log entry 10); the accumulators of an ended `Update` are free values (spec/47_host_operations.md R185, decision
D23, log entry 14). -/
def Obligations.UnimplementedWordLatchesFault : Prop :=
  ∀ (s : State) (w : Word), s.fault = none → s.pc.toNat ≤ 0xFFE →
    w.toNat = (s.byteAt s.pc.toNat).toNat * 256 + (s.byteAt (s.pc.toNat + 1)).toNat →
    (∀ row ∈ opcodeRows, selectsRow w row = false) →
      s.StepLatches
        { cause := .unimplementedOpcode, pc := s.pc, word := w, set := setField w,
          sub := if (setField w).toNat = 0x0 ∨ (setField w).toNat = 0xE ∨ (setField w).toNat = 0xF then some (nnField w)
            else if (setField w).toNat = 0x8 ∨ (setField w).toNat = 0x9 then some ((nField w).setWidth 8) else none,
          info := 0 }

/-- Faults are sticky: from a faulted state no step but a `Reset` or `LoadRom` of the host changes anything but the key latch (and
the model's list of the host's moves); the record stays (spec/40_execute_one.md R104, spec/47_host_operations.md R185,
spec/60_exceptions.md R208; decision D12, log entry 9). That a faulted core has no `Update` in progress is part of
`State.Sound`. -/
def Obligations.FaultedCoreIsInert : Prop :=
  ∀ s t : State, s.fault ≠ none → s.update = none → step s = .next t →
    s.script.head? ≠ some .reset → (∀ bytes, s.script.head? ≠ some (.loadRom bytes)) →
      t.pc = s.pc ∧ Frame [] [.latch, .script] s t

/-- Faults are precise: an instruction that latches a fault leaves every other piece of state, `PC` included, as it was, and the
record names the instruction's address and word (spec/60_exceptions.md R206, spec/40_execute_one.md R104; decision D12, log
entry 9). -/
def Obligations.FaultDiscardsTheStep : Prop :=
  ∀ (i : Instr) (s t : State), s.fault = none → exec i s = .next t → t.fault ≠ none →
    ∃ f, t = s.setFault (some f) ∧ f.pc = s.pc ∧ f.word = i.encode ∧ f.set = setField i.encode ∧ f.sub = none

/-- Every instruction can meet the fetch fault; beyond that `00EE` can latch `StackUnderflow`, `2NNN` `StackOverflow`, `DXYN`,
`FX33`, `FX65` `AddressOutOfRange`, and the other 25 nothing (spec/60_exceptions.md R211, R212; that a fault is a latched record
is decision D12, log entry 9). -/
def Obligations.FaultsByInstruction : Prop :=
  (∀ s : State, s.fault = none → 0xFFE < s.pc.toNat →
      ∃ t f, executeOne s = .next t ∧ t.fault = some f ∧ f.cause = .addressOutOfRange) ∧
    ∀ (i : Instr) (s t : State) (f : FaultRecord), s.fault = none → exec i s = .next t → t.fault = some f →
      (i = .ret ∧ f.cause = .stackUnderflow) ∨ ((∃ nnn, i = .call nnn) ∧ f.cause = .stackOverflow) ∨
        (((∃ x y n, i = .drw x y n) ∨ (∃ x, i = .bcd x) ∨ ∃ x, i = .ldRegs x) ∧ f.cause = .addressOutOfRange)

/-- Every one of the 30 instructions has an effect in every state: its own, or the latching of a fault
(spec/93_implementation_defined.md, last paragraph of Part 1; spec/60_exceptions.md R206). -/
def Obligations.InstructionsNeverStopTheMachine : Prop :=
  ∀ (i : Instr) (s : State), ∃ t, exec i s = .next t

/-! ## Invariants and whole-machine rules -/

/-- The state right after power-on holds the values of R36 and meets the three invariants. `PC` and memory are the source's values,
the zeros are the spec's decision D5 (log entry 6), the empty latch D6 (log entry 7), the font bytes are a parameter (log entry
1). -/
def Obligations.ResetMeetsInvariants : Prop :=
  State.reset.Sound ∧ State.reset.InReach ∧ State.reset.ClockBounded ∧
    State.reset.pc = 0x0200 ∧ (∀ r, State.reset.reg r = 0) ∧ State.reset.i = 0 ∧ State.reset.sp = 0 ∧
    (∀ j, State.reset.slot j = 0) ∧ State.reset.delay = 0 ∧ State.reset.accI = 0 ∧ State.reset.accT = 0 ∧
    (∀ px py, State.reset.pixel px py = false) ∧ State.reset.latch = [] ∧ State.reset.fault = none ∧
    (∀ a, a < 80 → some (State.reset.byteAt a) = State.reset.cfg.font[a]?) ∧ ∀ a, 80 ≤ a → State.reset.byteAt a = 0

/-- Every step, the core's or the host's, keeps the form of the state (spec/10_state.md R24 "`SP` never exceeds stack capacity",
R29, R30, spec/20_memory.md R50, spec/47_host_operations.md R185). -/
def Obligations.StepKeepsStateSound : Prop :=
  ∀ s t : State, s.Sound → step s = .next t → t.Sound

/-- `PC` cannot run away: after a fetch it is at most 0x1000, after a skip at most 0x1002, and every valid return address is at most
0x1000 (spec/10_state.md R23, spec/41_flow.md R110, both marked as derived there). Nothing is said of a faulted state. -/
def Obligations.StepKeepsAddressesInReach : Prop :=
  ∀ s t : State, s.InReach → step s = .next t → t.InReach

/-- Between host operations `acc_t < 1/60` always, and `acc_i` is below the interval of a call once its instruction loop is done
(spec/10_state.md R29, derived there from spec/47_host_operations.md R182, R183). -/
def Obligations.StepKeepsClockBounded : Prop :=
  ∀ s t : State, s.ClockBounded → step s = .next t → t.ClockBounded

/-- The open parameters are fixed for a machine, and an output event once emitted stays emitted (spec/00_scope.md R5,
spec/47_host_operations.md R190, R191; both fields are the model's own, log entries 5 and 27). -/
def Obligations.StepsKeepParametersAndEvents : Prop :=
  ∀ s t : State, step s = .next t → t.cfg = s.cfg ∧ s.events <+: t.events

/-- `FX33` is the only instruction that writes memory (spec/20_memory.md R55, spec/46_index_memory.md R175). -/
def Obligations.OnlyBcdStoresToMemory : Prop :=
  ∀ (i : Instr) (s t : State), (∀ x, i ≠ .bcd x) → exec i s = .next t → ∀ a, t.byteAt a = s.byteAt a

/-- `VF` is written as a side effect by `8XY4` to `8XY7` and `DXYN`, and otherwise only by an instruction whose `X` is `0xF`
(spec/10_state.md R21: the rule says "these six" and lists these five; spec/43_alu.md R138). -/
def Obligations.FlagRegisterWriters : Prop :=
  ∀ (i : Instr) (s t : State), exec i s = .next t → t.reg 0xF ≠ s.reg 0xF →
    (∃ x y, i = .addReg x y ∨ i = .subReg x y ∨ i = .shrReg x y ∨ i = .subnReg x y) ∨ (∃ x y n, i = .drw x y n) ∨
      (∃ nn, i = .ldImm 0xF nn ∨ i = .addImm 0xF nn ∨ i = .rnd 0xF nn) ∨
      (∃ y, i = .ldReg 0xF y ∨ i = .orReg 0xF y ∨ i = .andReg 0xF y ∨ i = .xorReg 0xF y) ∨
      i = .ldVxDt 0xF ∨ i = .ldVxK 0xF ∨ i = .ldRegs 0xF

/-- The table of R35, with `a` the address of the instruction; all values modulo 65536 (spec/10_state.md R35; its last row rests on
decision D12, log entry 9). -/
def Obligations.ProgramCounterAfterInstruction : Prop :=
  ∀ (i : Instr) (s t : State), s.fault = none → exec i s = .next t →
    (t.fault ≠ none → t.pc = s.pc) ∧
      (t.fault = none →
        match i with
        | .jp nnn => t.pc.toNat = nnn.toNat
        | .call nnn => t.pc.toNat = nnn.toNat
        | .ret => t.pc = s.slot (s.sp - 1)
        | .seImm _ _ | .sneImm _ _ | .sneReg _ _ | .skp _ | .sknp _ => t.pc = s.pc + 4 ∨ t.pc = s.pc + 2
        | .ldVxK _ => if s.latch = [] then t.pc = s.pc else t.pc = s.pc + 2
        | _ => t.pc = s.pc + 2)

/-- The latch is read by `EX9E`, `EXA1` and `FX0A` only, and no instruction writes it (spec/10_state.md R30): with any other latch
every other instruction does the same. -/
def Obligations.OnlyKeyInstructionsSeeTheLatch : Prop :=
  ∀ (i : Instr) (s : State) (keys : List Nibble), (∀ x, i ≠ .skp x ∧ i ≠ .sknp x ∧ i ≠ .ldVxK x) →
    exec i (s.setLatch keys) = thenNext (exec i s) (fun t => t.setLatch keys)

/-- "No instruction reads or writes them" (spec/10_state.md R29; that they are exact rationals is decision D2, log entry 12). -/
def Obligations.NoInstructionSeesTheAccumulators : Prop :=
  ∀ (i : Instr) (s : State) (a b : Seconds),
    exec i ((s.setAccI a).setAccT b) = thenNext (exec i s) (fun t => (t.setAccI a).setAccT b)

/-! ## Control transfer -/

/-- `1NNN` (spec/41_flow.md R111): any target, odd ones too; after `NNN = 0xFFF` the next fetch finds no word. -/
def Obligations.JumpResult : Prop :=
  ∀ (nnn : Addr12) (s : State), ∃ t, exec (.jp nnn) s = .next t ∧ t.pc.toNat = nnn.toNat ∧ Frame [] [] s t ∧
    (nnn = 0xFFF → t.fetch = none)

/-- `2NNN` (spec/41_flow.md R112, spec/60_exceptions.md R202; that the faulting case leaves `PC` unadvanced is decision D12, log
entry 9). The premises on the stack of the second clause are part of `State.Sound`. In a state that is not `Sound`, with `SP` above
`STACK_DEPTH` or another number of slots, what the first clause says is the model's choice: a write past the end of the list of
slots is dropped (log entry 36). -/
def Obligations.CallResult : Prop :=
  ∀ (nnn : Addr12) (s : State),
    (s.sp ≠ s.cfg.stackDepth → ∃ t, exec (.call nnn) s = .next t ∧ t.stack = s.stack.set s.sp (s.pc + 2) ∧
        t.sp = s.sp + 1 ∧ t.pc.toNat = nnn.toNat ∧ Frame [] [.stack] s t) ∧
      (s.sp < s.cfg.stackDepth → s.stack.length = s.cfg.stackDepth →
        ∃ t, exec (.call nnn) s = .next t ∧ t.slot s.sp = s.pc + 2 ∧ (∀ j, j ≠ s.sp → t.slot j = s.slot j) ∧
          t.sp = s.sp + 1 ∧ t.pc.toNat = nnn.toNat ∧ Frame [] [.stack] s t) ∧
      (s.sp = s.cfg.stackDepth → exec (.call nnn) s = .next (s.latched (.call nnn) .stackOverflow 0))

/-- `00EE` (spec/41_flow.md R110, spec/60_exceptions.md R203; the slot keeps its value, decision D4, log entry 30; `PC` of the
faulting case, decision D12, log entry 9). -/
def Obligations.ReturnResult : Prop :=
  ∀ s : State,
    (s.sp ≠ 0 → ∃ t, exec .ret s = .next t ∧ t.pc = s.slot (s.sp - 1) ∧ t.sp = s.sp - 1 ∧ t.stack = s.stack ∧
        Frame [] [.stack] s t) ∧
      (s.sp = 0 → exec .ret s = .next (s.latched .ret .stackUnderflow 0))

/-- "`CALL 0x300` then immediately `RET` restores `PC` to the instruction following the original CALL" (spec/40_execute_one.md
R102, spec/95_test_vectors.md S8-7), for every target. The premises on the stack are part of `State.Sound`. -/
def Obligations.CallThenReturnResumesAfterCall : Prop :=
  ∀ (nnn : Addr12) (s : State), s.stack.length = s.cfg.stackDepth → s.sp < s.cfg.stackDepth →
    ∃ t u, exec (.call nnn) s = .next t ∧ exec .ret t = .next u ∧ u.pc = s.pc + 2 ∧ u.sp = s.sp ∧
      (∀ j, j < s.sp → u.slot j = s.slot j) ∧ Frame [] [.stack] s u

/-- `3XNN`, `4XNN`, `9XY0` (spec/41_flow.md R113, R114, R115). -/
def Obligations.SkipsOnRegisters : Prop :=
  (∀ (x : Nibble) (nn : Byte) (s : State), ∃ t, exec (.seImm x nn) s = .next t ∧
      t.pc = (if s.reg x = nn then s.pc + 4 else s.pc + 2) ∧ Frame [] [] s t) ∧
    (∀ (x : Nibble) (nn : Byte) (s : State), ∃ t, exec (.sneImm x nn) s = .next t ∧
      t.pc = (if s.reg x ≠ nn then s.pc + 4 else s.pc + 2) ∧ Frame [] [] s t) ∧
    (∀ (x y : Nibble) (s : State), ∃ t, exec (.sneReg x y) s = .next t ∧
      t.pc = (if s.reg x ≠ s.reg y then s.pc + 4 else s.pc + 2) ∧ (x = y → t.pc = s.pc + 2) ∧ Frame [] [] s t) ∧
    ∀ (x y n : Nibble), n ≠ 0 → ∀ i, decodeWord (encodeXYN 0x9 x y n) ≠ .ok i

/-! ## Immediate loads -/

/-- `6XNN`, `7XNN`, `ANNN` (spec/42_load_imm.md R120, R121, R122). -/
def Obligations.ImmediateLoadResults : Prop :=
  (∀ (x : Nibble) (nn : Byte) (s : State), ∃ t, exec (.ldImm x nn) s = .next t ∧ t.pc = s.pc + 2 ∧ t.reg x = nn ∧
      Frame [x] [] s t) ∧
    (∀ (x : Nibble) (nn : Byte) (s : State), ∃ t, exec (.addImm x nn) s = .next t ∧ t.pc = s.pc + 2 ∧
      (t.reg x).toNat = ((s.reg x).toNat + nn.toNat) % 256 ∧ Frame [x] [] s t) ∧
    ∀ (nnn : Addr12) (s : State), ∃ t, exec (.ldI nnn) s = .next t ∧ t.pc = s.pc + 2 ∧ t.i.toNat = nnn.toNat ∧
      Frame [] [.index] s t

/-- `CXNN` (spec/42_load_imm.md R123). The byte drawn, `Config.randomByte s.draws`, is a free value: the clauses about `rndWith r` hold
for every byte `r`, so they hold for it; that the draws are numbered and counted is the model's choice (log entry 13). -/
def Obligations.RandomResult : Prop :=
  ∀ (x : Nibble) (nn : Byte) (s : State),
    exec (.rnd x nn) s = .next (rndWith (Config.randomByte s.draws) x nn s).nextDraw ∧
      (∀ r : Byte, (rndWith r x nn s).nextDraw.reg x = r &&& nn ∧ (rndWith r x nn s).nextDraw.reg x &&& ~~~nn = 0 ∧
        (rndWith r x nn s).nextDraw.pc = s.pc + 2 ∧ (rndWith r x nn s).nextDraw.draws = s.draws + 1 ∧
        Frame [x] [.draws] s (rndWith r x nn s).nextDraw) ∧
      ∀ v : Byte, v &&& ~~~nn = 0 → ∃ r, (rndWith r x nn s).nextDraw.reg x = v

/-! ## Register-register ALU -/

/-- `8XY0` to `8XY3` (spec/43_alu.md R130 to R133). -/
def Obligations.BitwiseResults : Prop :=
  ∀ (x y : Nibble) (s : State),
    (∃ t, exec (.ldReg x y) s = .next t ∧ t.pc = s.pc + 2 ∧ t.reg x = s.reg y ∧ Frame [x] [] s t) ∧
    (∃ t, exec (.orReg x y) s = .next t ∧ t.pc = s.pc + 2 ∧ t.reg x = s.reg x ||| s.reg y ∧ Frame [x] [] s t) ∧
    (∃ t, exec (.andReg x y) s = .next t ∧ t.pc = s.pc + 2 ∧ t.reg x = s.reg x &&& s.reg y ∧ Frame [x] [] s t) ∧
    (∃ t, exec (.xorReg x y) s = .next t ∧ t.pc = s.pc + 2 ∧ t.reg x = s.reg x ^^^ s.reg y ∧ Frame [x] [] s t)

/-- `8XY4` (spec/43_alu.md R134); that the flag is written last, so that it stays when `X = 0xF`, is decision D13 (R138 d, log
entry 20). -/
def Obligations.AddWithCarryResult : Prop :=
  ∀ (x y : Nibble) (s : State), ∃ t, exec (.addReg x y) s = .next t ∧ t.pc = s.pc + 2 ∧
    t.reg 0xF = (if (s.reg x).toNat + (s.reg y).toNat > 255 then 1 else 0) ∧
    (x ≠ 0xF → (t.reg x).toNat = ((s.reg x).toNat + (s.reg y).toNat) % 256) ∧ Frame [x, 0xF] [] s t

/-- `8XY5`, `8XY7` (spec/43_alu.md R135, R137; strictness of `8XY7` is decision D14, log entry 21; flag last is D13, log entry 20). -/
def Obligations.SubtractResults : Prop :=
  ∀ (x y : Nibble) (s : State),
    (∃ t, exec (.subReg x y) s = .next t ∧ t.pc = s.pc + 2 ∧
      t.reg 0xF = (if (s.reg x).toNat > (s.reg y).toNat then 1 else 0) ∧
      (x ≠ 0xF → ((t.reg x).toNat : Int) = (((s.reg x).toNat : Int) - (s.reg y).toNat) % 256) ∧ Frame [x, 0xF] [] s t) ∧
    (∃ t, exec (.subnReg x y) s = .next t ∧ t.pc = s.pc + 2 ∧
      t.reg 0xF = (if (s.reg y).toNat > (s.reg x).toNat then 1 else 0) ∧
      (x ≠ 0xF → ((t.reg x).toNat : Int) = (((s.reg y).toNat : Int) - (s.reg x).toNat) % 256) ∧ Frame [x, 0xF] [] s t)

/-- `8XY6` (spec/43_alu.md R136, both values of the parameter `SHR_SOURCE`, decision D15, log entry 3; flag last is D13, log entry
20). -/
def Obligations.ShiftRightResult : Prop :=
  ∀ (x y : Nibble) (s : State) (src : Byte),
    (s.cfg.shrSource = .vx → src = s.reg x) → (s.cfg.shrSource = .vy → src = s.reg y) →
      ∃ t, exec (.shrReg x y) s = .next t ∧ t.pc = s.pc + 2 ∧ (t.reg 0xF).toNat = src.toNat % 2 ∧
        (x ≠ 0xF → (t.reg x).toNat = src.toNat / 2) ∧ Frame [x, 0xF] [] s t

/-! ## Display -/

/-- `00E0` (spec/44_display.md R150; the strobe is the parameter `CLS_REFRESH`, decision D20, log entry 4; events are recorded, log
entry 27). -/
def Obligations.ClearScreenResult : Prop :=
  ∀ s : State, ∃ t, exec .cls s = .next t ∧ t.pc = s.pc + 2 ∧ (∀ px py, t.pixel px py = false) ∧
    t.events = (if s.cfg.clsRefresh = true then s.events ++ [.refresh] else s.events) ∧ Frame [] [.pixels, .events] s t

/-- `DXYN` (spec/44_display.md R151, R153 to R156): coordinates wrap on both axes, the flag is one disjunction over the whole
sprite. The bit order is decision D18 (log entry 24), the strobe D20 (log entry 4), the sampling of operands D19 (log entry 25). -/
def Obligations.DrawResult : Prop :=
  ∀ (x y n : Nibble) (s : State), n = 0 ∨ s.i.toNat + n.toNat ≤ 0x1000 →
    ∃ t, exec (.drw x y n) s = .next t ∧ t.pc = s.pc + 2 ∧
      (∀ px py, (s.SpriteCovers x y n px py → t.pixel px py = !s.pixel px py) ∧
        (¬ s.SpriteCovers x y n px py → t.pixel px py = s.pixel px py)) ∧
      ((∃ px py, s.pixel px py = true ∧ s.SpriteCovers x y n px py) → t.reg 0xF = 1) ∧
      ((¬ ∃ px py, s.pixel px py = true ∧ s.SpriteCovers x y n px py) → t.reg 0xF = 0) ∧
      (((∃ px py, s.SpriteCovers x y n px py) ∨ s.cfg.drwRefreshAlways = true) → t.events = s.events ++ [.refresh]) ∧
      (¬ ((∃ px py, s.SpriteCovers x y n px py) ∨ s.cfg.drwRefreshAlways = true) → t.events = s.events) ∧
      Frame [0xF] [.pixels, .events] s t

/-- Drawing a sprite twice turns its pixels back (spec/44_display.md R151, R155, spec/95_test_vectors.md S8-4), for every sprite and
place. `X` and `Y` are not `0xF`, since the first draw overwrites `VF` and the second would start elsewhere; a single draw with `X`
or `Y` equal to `0xF` is covered by `Obligations.DrawResult`. A sprite without a bit 1 (or `N = 0`) never collides, so the last
clause asks for one. -/
def Obligations.DrawingTwiceRestoresTheScreen : Prop :=
  ∀ (x y n : Nibble) (s : State), x ≠ 0xF → y ≠ 0xF → (n = 0 ∨ s.i.toNat + n.toNat ≤ 0x1000) →
    ∃ t u, exec (.drw x y n) s = .next t ∧ exec (.drw x y n) t = .next u ∧ (∀ px py, u.pixel px py = s.pixel px py) ∧
      (t.reg 0xF = 0 → (∃ px py, s.SpriteCovers x y n px py) → u.reg 0xF = 1) ∧ u.pc = s.pc + 4 ∧
      Frame [0xF] [.events] s u

/-- All addresses are checked before anything is written (spec/44_display.md R152, spec/46_index_memory.md R172, R173,
spec/60_exceptions.md R204; decisions D8, D12, D19, log entries 8, 9, 25). -/
def Obligations.DataAccessOutsideMemoryLatchesFault : Prop :=
  ∀ (x y n : Nibble) (s : State),
    (n ≠ 0 → s.i.toNat + n.toNat - 1 > 0xFFF →
        exec (.drw x y n) s =
          .next (s.latched (.drw x y n) .addressOutOfRange (BitVec.ofNat 16 (max s.i.toNat 0x1000)))) ∧
      (s.i.toNat + 2 > 0xFFF →
        exec (.bcd x) s = .next (s.latched (.bcd x) .addressOutOfRange (BitVec.ofNat 16 (max s.i.toNat 0x1000)))) ∧
      (s.i.toNat + x.toNat > 0xFFF →
        exec (.ldRegs x) s = .next (s.latched (.ldRegs x) .addressOutOfRange (BitVec.ofNat 16 (max s.i.toNat 0x1000))))

/-! ## Keys, timer, sound -/

/-- `EX9E`, `EXA1` (spec/45_keys_timers_sound.md R160, R161). The two clauses on a byte above 0xF are marked "[derived]" in these
rules, an inference of the spec's own. -/
def Obligations.KeySkips : Prop :=
  ∀ (x : Nibble) (s : State),
    (∃ t, exec (.skp x) s = .next t ∧
      t.pc = (if ∃ k ∈ s.latch, k.toNat = (s.reg x).toNat then s.pc + 4 else s.pc + 2) ∧
      ((s.reg x).toNat > 0xF → t.pc = s.pc + 2) ∧ Frame [] [] s t) ∧
    (∃ t, exec (.sknp x) s = .next t ∧
      t.pc = (if ∃ k ∈ s.latch, k.toNat = (s.reg x).toNat then s.pc + 2 else s.pc + 4) ∧
      ((s.reg x).toNat > 0xF → t.pc = s.pc + 4) ∧ Frame [] [] s t)

/-- `FX07`, `FX15` (spec/45_keys_timers_sound.md R162, R164). -/
def Obligations.DelayTimerResults : Prop :=
  ∀ (x : Nibble) (s : State),
    (∃ t, exec (.ldVxDt x) s = .next t ∧ t.pc = s.pc + 2 ∧ t.reg x = s.delay ∧ Frame [x] [] s t) ∧
    (∃ t, exec (.ldDtVx x) s = .next t ∧ t.pc = s.pc + 2 ∧ t.delay = s.reg x ∧ Frame [] [.delay] s t)

/-- `FX0A` (spec/45_keys_timers_sound.md R163): waiting leaves all state unchanged; otherwise the last inserted key still held. -/
def Obligations.KeyWaitResult : Prop :=
  ∀ (x : Nibble) (s : State),
    (s.latch = [] → exec (.ldVxK x) s = .next s) ∧
      ∀ (older : List Nibble) (k : Nibble), s.latch = older ++ [k] →
        ∃ t, exec (.ldVxK x) s = .next t ∧ t.pc = s.pc + 2 ∧ (t.reg x).toNat = k.toNat ∧ Frame [x] [] s t

/-- `FX18` (spec/45_keys_timers_sound.md R165, spec/47_host_operations.md R191); the list of events is the model's own (log entry
27). -/
def Obligations.SoundResult : Prop :=
  ∀ (x : Nibble) (s : State), ∃ t, exec (.snd x) s = .next t ∧ t.pc = s.pc + 2 ∧
    t.events = s.events ++ [.beep (s.reg x)] ∧ Frame [] [.events] s t

/-- `SetKeyDown`, `SetKeyUp` and the queries (spec/47_host_operations.md R187 to R189): "ties resolve to last-inserted-wins". They
may fall between any two instructions of an `Update` (spec/70_reset_and_hazards.md R241). The moves stand in `script`, the
model's own list (log entry 10). -/
def Obligations.KeyEventsReachTheLatch : Prop :=
  ∀ (s : State) (k : Nibble) (rest : List HostMove),
    (s.script = .setKeyDown k :: rest →
      ∃ t, step s = .next t ∧ t.pc = s.pc ∧ t.latch = s.latch.filter (· ≠ k) ++ [k] ∧ t.script = rest ∧
        t.mostRecentKey = some k ∧ (s.latch.Nodup → t.latch.Nodup ∧ t.latch.length ≤ 16) ∧
        Frame [] [.latch, .script] s t) ∧
    (s.script = .setKeyUp k :: rest →
      ∃ t, step s = .next t ∧ t.pc = s.pc ∧ t.latch = s.latch.filter (· ≠ k) ∧ t.script = rest ∧
        (k ∉ s.latch → t.latch = s.latch) ∧ Frame [] [.latch, .script] s t)

/-! ## Index register and memory -/

/-- `FX1E` (spec/46_index_memory.md R170; the wrap is decision D16, log entry 22). -/
def Obligations.AddIndexResult : Prop :=
  ∀ (x : Nibble) (s : State), ∃ t, exec (.addI x) s = .next t ∧ t.pc = s.pc + 2 ∧
    t.i.toNat = (s.i.toNat + (s.reg x).toNat) % 65536 ∧ Frame [] [.index] s t

/-- `FX29` (spec/46_index_memory.md R171). -/
def Obligations.FontPointerResult : Prop :=
  ∀ (x : Nibble) (s : State), ∃ t, exec (.ldF x) s = .next t ∧ t.pc = s.pc + 2 ∧
    t.i.toNat = (s.reg x).toNat * 5 ∧ t.i.toNat ≤ 1275 ∧ Frame [] [.index] s t

/-- `FX33` (spec/46_index_memory.md R172; that `I` stays is decision D17, log entry 23). The canonical form of memory is part of
`State.Sound`. -/
def Obligations.DecimalDigitsResult : Prop :=
  ∀ (x : Nibble) (s : State), Memory.wf s.cfg s.mem = true → s.i.toNat + 2 ≤ 0xFFF →
    ∃ t, exec (.bcd x) s = .next t ∧ t.pc = s.pc + 2 ∧
      (t.byteAt s.i.toNat).toNat = (s.reg x).toNat / 100 ∧
      (t.byteAt (s.i.toNat + 1)).toNat = (s.reg x).toNat / 10 % 10 ∧
      (t.byteAt (s.i.toNat + 2)).toNat = (s.reg x).toNat % 10 ∧
      (∀ a, a < s.i.toNat ∨ s.i.toNat + 2 < a → t.byteAt a = s.byteAt a) ∧ Frame [] [.memory] s t

/-- `FX65` (spec/46_index_memory.md R173; that `I` stays is decision D17, log entry 23). -/
def Obligations.LoadRegistersResult : Prop :=
  ∀ (x : Nibble) (s : State), s.i.toNat + x.toNat ≤ 0xFFF →
    ∃ t, exec (.ldRegs x) s = .next t ∧ t.pc = s.pc + 2 ∧
      (∀ r : Nibble, r.toNat ≤ x.toNat → t.reg r = s.byteAt (s.i.toNat + r.toNat)) ∧
      (∀ r : Nibble, x.toNat < r.toNat → t.reg r = s.reg r) ∧ ∀ p, Same p s t

/-- "A write changes exactly the addressed cell; reading a cell returns the last value written to it" (spec/20_memory.md R56), and
no other store is memory (R61). -/
def Obligations.StoredBytesReadBack : Prop :=
  ∀ (s : State) (a : Nat) (ws : List Byte), Memory.wf s.cfg s.mem = true →
    (∀ k, (h : k < ws.length) → (s.storeBytes a ws).byteAt (a + k) = ws[k]) ∧
      (∀ q, q < a ∨ a + ws.length ≤ q → (s.storeBytes a ws).byteAt q = s.byteAt q) ∧
      Frame [] [.memory] s (s.storeBytes a ws)

/-- Self-modifying code works: "after `FX33` writes a digit byte over an instruction byte, the next fetch of that address reads the
new byte" (spec/20_memory.md R60). -/
def Obligations.NextFetchSeesAStore : Prop :=
  ∀ (x : Nibble) (s : State), Memory.wf s.cfg s.mem = true → s.i = s.pc + 2 → s.i.toNat + 2 ≤ 0xFFF →
    ∃ t w, exec (.bcd x) s = .next t ∧ t.fetch = some w ∧
      w.toNat = (s.reg x).toNat / 100 * 256 + (s.reg x).toNat / 10 % 10

/-! ## Host operations -/

/-- `Reset()` (spec/70_reset_and_hazards.md R230, spec/10_state.md R36): the latch is not touched (decision D6, log entry 7), the
zeros are decision D5 (log entry 6), the fault is cleared (D12, log entry 9). That the parameters, the
events, the draw count and the host's moves stay is the model's choice, they are its own fields (log entries 5, 10, 13, 27). -/
def Obligations.ResetMoveResult : Prop :=
  ∀ (s : State) (rest : List HostMove), s.script = .reset :: rest → s.update = none →
    ∃ t, step s = .next t ∧ t.pc = 0x0200 ∧ (∀ r, t.reg r = 0) ∧ t.i = 0 ∧ t.sp = 0 ∧
      t.stack = List.replicate s.cfg.stackDepth 0 ∧ t.delay = 0 ∧ t.accI = 0 ∧ t.accT = 0 ∧
      (∀ px py, t.pixel px py = false) ∧ t.fault = none ∧ t.update = none ∧
      (∀ a, a < 80 → some (t.byteAt a) = s.cfg.font[a]?) ∧ (∀ a, 80 ≤ a → t.byteAt a = 0) ∧
      t.latch = s.latch ∧ t.events = s.events ∧ t.draws = s.draws ∧ t.cfg = s.cfg ∧ t.script = rest

/-- `LoadRom(bytes)` (spec/70_reset_and_hazards.md R232, spec/20_memory.md R51); the zeros of the registers are decision D5 (log
entry 6), the kept latch D6 (log entry 7). -/
def Obligations.LoadRomMoveResult : Prop :=
  ∀ (s : State) (bytes : List Byte) (rest : List HostMove), s.script = .loadRom bytes :: rest → s.update = none →
    bytes ≠ [] → bytes.length ≤ 3584 →
      ∃ t, step s = .next t ∧ (∀ k, (h : k < bytes.length) → t.byteAt (0x200 + k) = bytes[k]) ∧
        (∀ a, a < 80 → some (t.byteAt a) = s.cfg.font[a]?) ∧
        (∀ a, 80 ≤ a → a < 0x200 ∨ 0x200 + bytes.length ≤ a → t.byteAt a = 0) ∧
        t.pc = 0x0200 ∧ (∀ r, t.reg r = 0) ∧ t.i = 0 ∧ t.sp = 0 ∧ t.delay = 0 ∧ t.accI = 0 ∧ t.accT = 0 ∧
        (∀ px py, t.pixel px py = false) ∧ t.fault = none ∧ t.latch = s.latch

/-- `LoadRom` of zero bytes (spec/70_reset_and_hazards.md R233, spec/60_exceptions.md R200, R205). Everything else the core holds is
unspecified, a free value each (decision D25, log entry 15). -/
def Obligations.InvalidRomMoveLatchesFault : Prop :=
  ∀ (s : State) (rest : List HostMove), s.script = .loadRom [] :: rest → s.update = none →
    ∃ t, step s = .next t ∧
      t.fault = some { cause := .invalidRom, pc := 0x0200, word := 0, set := 0, sub := none, info := 0 } ∧
      t.cfg = s.cfg ∧ t.script = rest

/-- What the host is "assumed never" to do has no transition (spec/47_host_operations.md R194, spec/70_reset_and_hazards.md R232,
R240; decisions D22, D24, log entries 16 and 17). -/
def Obligations.MovesWithoutMeaningAreRefused : Prop :=
  ∀ (s : State) (m : HostMove) (rest : List HostMove), s.script = m :: rest →
    (s.update ≠ none →
        (m = .reset ∨ (∃ bytes, m = .loadRom bytes) ∨ (∃ e ips, m = .update e ips) ∨ m = .executeOne) →
        step s = .refused .overlappingOperation) ∧
      (s.update = none → ∀ bytes, m = .loadRom bytes → bytes.length > 3584 → step s = .refused .romTooLong) ∧
      (s.update = none → ∀ e ips, m = .update e ips → e < 0 → step s = .refused .negativeElapsed)

/-- The instruction half of `Update` (spec/47_host_operations.md R182, its closed form marked derived there; spec/40_execute_one.md
R106: every instruction costs one budget tick). Time is exact (decision D2, log entry 12). -/
def Obligations.UpdateCountsInstructions : Prop :=
  ∀ (s t : State) (elapsed : Seconds) (ips n : Nat), s.fault = none →
    (n : Rat) * interval ips ≤ s.accI + elapsed → s.accI + elapsed < ((n : Rat) + 1) * interval ips →
      interval ips = 1 / (max 1 (ips : Rat)) ∧ dueCount (s.accI + elapsed) (interval ips) = n ∧
        (instructionLoop (interval ips) n (s.setAccI (s.accI + elapsed)) = .next t → t.fault = none →
          t.accI = s.accI + elapsed - n * interval ips ∧ 0 ≤ t.accI ∧ t.accI < interval ips ∧ t.accT = s.accT)

/-- The timer half of `Update` (spec/47_host_operations.md R183, its closed form marked derived there; spec/10_state.md R26: `Delay`
never goes below 0 and never wraps). Time is exact (decision D2, log entry 12). -/
def Obligations.UpdateCountsTimerTicks : Prop :=
  ∀ (s : State) (elapsed : Seconds) (m : Nat),
    (m : Rat) ≤ (s.accT + elapsed) * 60 → (s.accT + elapsed) * 60 < (m : Rat) + 1 →
      (s.timerPart elapsed).delay.toNat = s.delay.toNat - m ∧
        (s.timerPart elapsed).accT = s.accT + elapsed - m / 60 ∧ 0 ≤ (s.timerPart elapsed).accT ∧
        (s.timerPart elapsed).accT < 1 / 60 ∧ (s.timerPart elapsed).accI = s.accI ∧
        (s.timerPart elapsed).pc = s.pc ∧ Frame [] [.delay, .clock] s (s.timerPart elapsed)

/-- Timer independence (spec/47_host_operations.md R186 a, spec/95_test_vectors.md S8-6): for any split of the second into calls and
any starting residue. The instructions of each call are any function of the state that leaves `Delay` and `acc_t` alone, as the
property asks. It rests on exact time (decision D2, log entry 12). -/
def Obligations.OneSecondIsSixtyTicks : Prop :=
  ∀ (s : State) (calls : List (Seconds × (State → State))), 0 ≤ s.accT → s.accT < 1 / 60 →
    (∀ c ∈ calls, 0 ≤ c.1 ∧ ∀ u, (c.2 u).delay = u.delay ∧ (c.2 u).accT = u.accT) →
    (calls.map Prod.fst).sum = 1 →
      (calls.foldl (fun u c => (c.2 u).timerPart c.1) s).delay.toNat = s.delay.toNat - 60 ∧
        (calls.foldl (fun u c => (c.2 u).timerPart c.1) s).accT = s.accT

/-- The model's step takes an `Update` one loop action at a time, so that key events can fall between its instructions; left alone
it reaches what the transaction of R181 gives: all due instructions first, then all due ticks (R184), ended by a fault (R185).
The granularity is the model's choice (log entry 11). -/
def Obligations.StepwiseUpdateIsTheWholeCall : Prop :=
  ∀ (s t : State) (elapsed : Seconds) (ips : Nat), s.Sound → s.fault = none → s.update = none → s.script = [] →
    0 ≤ elapsed → s.updateWhole elapsed ips = .next t →
      ∃ k, Host.Core.run Sys2Proof.core k (s.beginUpdate elapsed ips) = .next t

/-- The entry of `Update` (spec/47_host_operations.md R181, R185). That a call is in progress as a piece of state is the model's
choice (log entry 11). -/
def Obligations.UpdateMoveBeginsTheCall : Prop :=
  ∀ (s : State) (elapsed : Seconds) (ips : Nat) (rest : List HostMove), s.script = .update elapsed ips :: rest →
    s.update = none → 0 ≤ elapsed →
      (s.fault = none → ∃ t, step s = .next t ∧ t.pc = s.pc ∧ t.accI = s.accI + elapsed ∧ t.accT = s.accT ∧
          t.update = some { elapsed := elapsed, ips := ips, phase := .instructions } ∧ t.script = rest ∧
          Frame [] [.clock, .update, .script] s t) ∧
        (s.fault ≠ none → step s = .next (s.setScript rest))
end

