-- ==== Sys2Proof/Laws/State.lean ====
section
/-! SUPPORT. One lemma per field per update of the state, each true by rfl, and the same for the reads of one register, one memory
byte, one stack slot and one pixel, so that no proof unfolds a record update. -/

namespace Sys2Proof.Machine

variable (s : State)

/-! ## setRegs -/

@[simp] theorem State.setRegs_v (v : Vector Byte 16) : (s.setRegs v).v = v := rfl
@[simp] theorem State.setRegs_i (v : Vector Byte 16) : (s.setRegs v).i = s.i := rfl
@[simp] theorem State.setRegs_pc (v : Vector Byte 16) : (s.setRegs v).pc = s.pc := rfl
@[simp] theorem State.setRegs_stack (v : Vector Byte 16) : (s.setRegs v).stack = s.stack := rfl
@[simp] theorem State.setRegs_sp (v : Vector Byte 16) : (s.setRegs v).sp = s.sp := rfl
@[simp] theorem State.setRegs_delay (v : Vector Byte 16) : (s.setRegs v).delay = s.delay := rfl
@[simp] theorem State.setRegs_accI (v : Vector Byte 16) : (s.setRegs v).accI = s.accI := rfl
@[simp] theorem State.setRegs_accT (v : Vector Byte 16) : (s.setRegs v).accT = s.accT := rfl
@[simp] theorem State.setRegs_mem (v : Vector Byte 16) : (s.setRegs v).mem = s.mem := rfl
@[simp] theorem State.setRegs_pixels (v : Vector Byte 16) : (s.setRegs v).pixels = s.pixels := rfl
@[simp] theorem State.setRegs_latch (v : Vector Byte 16) : (s.setRegs v).latch = s.latch := rfl
@[simp] theorem State.setRegs_fault (v : Vector Byte 16) : (s.setRegs v).fault = s.fault := rfl
@[simp] theorem State.setRegs_update (v : Vector Byte 16) : (s.setRegs v).update = s.update := rfl
@[simp] theorem State.setRegs_cfg (v : Vector Byte 16) : (s.setRegs v).cfg = s.cfg := rfl
@[simp] theorem State.setRegs_draws (v : Vector Byte 16) : (s.setRegs v).draws = s.draws := rfl
@[simp] theorem State.setRegs_events (v : Vector Byte 16) : (s.setRegs v).events = s.events := rfl
@[simp] theorem State.setRegs_script (v : Vector Byte 16) : (s.setRegs v).script = s.script := rfl
@[simp] theorem State.setRegs_byteAt (v : Vector Byte 16) (q : Nat) : (s.setRegs v).byteAt q = s.byteAt q := rfl
@[simp] theorem State.setRegs_slot (v : Vector Byte 16) (j : Nat) : (s.setRegs v).slot j = s.slot j := rfl
@[simp] theorem State.setRegs_pixel (v : Vector Byte 16) (px : Fin 64) (py : Fin 32) : (s.setRegs v).pixel px py = s.pixel px py := rfl

/-! ## setReg -/

@[simp] theorem State.setReg_v (x : Nibble) (b : Byte) : (s.setReg x b).v = s.v.set x.toNat b x.isLt := rfl
@[simp] theorem State.setReg_i (x : Nibble) (b : Byte) : (s.setReg x b).i = s.i := rfl
@[simp] theorem State.setReg_pc (x : Nibble) (b : Byte) : (s.setReg x b).pc = s.pc := rfl
@[simp] theorem State.setReg_stack (x : Nibble) (b : Byte) : (s.setReg x b).stack = s.stack := rfl
@[simp] theorem State.setReg_sp (x : Nibble) (b : Byte) : (s.setReg x b).sp = s.sp := rfl
@[simp] theorem State.setReg_delay (x : Nibble) (b : Byte) : (s.setReg x b).delay = s.delay := rfl
@[simp] theorem State.setReg_accI (x : Nibble) (b : Byte) : (s.setReg x b).accI = s.accI := rfl
@[simp] theorem State.setReg_accT (x : Nibble) (b : Byte) : (s.setReg x b).accT = s.accT := rfl
@[simp] theorem State.setReg_mem (x : Nibble) (b : Byte) : (s.setReg x b).mem = s.mem := rfl
@[simp] theorem State.setReg_pixels (x : Nibble) (b : Byte) : (s.setReg x b).pixels = s.pixels := rfl
@[simp] theorem State.setReg_latch (x : Nibble) (b : Byte) : (s.setReg x b).latch = s.latch := rfl
@[simp] theorem State.setReg_fault (x : Nibble) (b : Byte) : (s.setReg x b).fault = s.fault := rfl
@[simp] theorem State.setReg_update (x : Nibble) (b : Byte) : (s.setReg x b).update = s.update := rfl
@[simp] theorem State.setReg_cfg (x : Nibble) (b : Byte) : (s.setReg x b).cfg = s.cfg := rfl
@[simp] theorem State.setReg_draws (x : Nibble) (b : Byte) : (s.setReg x b).draws = s.draws := rfl
@[simp] theorem State.setReg_events (x : Nibble) (b : Byte) : (s.setReg x b).events = s.events := rfl
@[simp] theorem State.setReg_script (x : Nibble) (b : Byte) : (s.setReg x b).script = s.script := rfl
@[simp] theorem State.setReg_byteAt (x : Nibble) (b : Byte) (q : Nat) : (s.setReg x b).byteAt q = s.byteAt q := rfl
@[simp] theorem State.setReg_slot (x : Nibble) (b : Byte) (j : Nat) : (s.setReg x b).slot j = s.slot j := rfl
@[simp] theorem State.setReg_pixel (x : Nibble) (b : Byte) (px : Fin 64) (py : Fin 32) : (s.setReg x b).pixel px py = s.pixel px py := rfl

/-! ## setI -/

@[simp] theorem State.setI_v (w : Word) : (s.setI w).v = s.v := rfl
@[simp] theorem State.setI_i (w : Word) : (s.setI w).i = w := rfl
@[simp] theorem State.setI_pc (w : Word) : (s.setI w).pc = s.pc := rfl
@[simp] theorem State.setI_stack (w : Word) : (s.setI w).stack = s.stack := rfl
@[simp] theorem State.setI_sp (w : Word) : (s.setI w).sp = s.sp := rfl
@[simp] theorem State.setI_delay (w : Word) : (s.setI w).delay = s.delay := rfl
@[simp] theorem State.setI_accI (w : Word) : (s.setI w).accI = s.accI := rfl
@[simp] theorem State.setI_accT (w : Word) : (s.setI w).accT = s.accT := rfl
@[simp] theorem State.setI_mem (w : Word) : (s.setI w).mem = s.mem := rfl
@[simp] theorem State.setI_pixels (w : Word) : (s.setI w).pixels = s.pixels := rfl
@[simp] theorem State.setI_latch (w : Word) : (s.setI w).latch = s.latch := rfl
@[simp] theorem State.setI_fault (w : Word) : (s.setI w).fault = s.fault := rfl
@[simp] theorem State.setI_update (w : Word) : (s.setI w).update = s.update := rfl
@[simp] theorem State.setI_cfg (w : Word) : (s.setI w).cfg = s.cfg := rfl
@[simp] theorem State.setI_draws (w : Word) : (s.setI w).draws = s.draws := rfl
@[simp] theorem State.setI_events (w : Word) : (s.setI w).events = s.events := rfl
@[simp] theorem State.setI_script (w : Word) : (s.setI w).script = s.script := rfl
@[simp] theorem State.setI_reg (w : Word) (r : Nibble) : (s.setI w).reg r = s.reg r := rfl
@[simp] theorem State.setI_byteAt (w : Word) (q : Nat) : (s.setI w).byteAt q = s.byteAt q := rfl
@[simp] theorem State.setI_slot (w : Word) (j : Nat) : (s.setI w).slot j = s.slot j := rfl
@[simp] theorem State.setI_pixel (w : Word) (px : Fin 64) (py : Fin 32) : (s.setI w).pixel px py = s.pixel px py := rfl

/-! ## setPc -/

@[simp] theorem State.setPc_v (w : Word) : (s.setPc w).v = s.v := rfl
@[simp] theorem State.setPc_i (w : Word) : (s.setPc w).i = s.i := rfl
@[simp] theorem State.setPc_pc (w : Word) : (s.setPc w).pc = w := rfl
@[simp] theorem State.setPc_stack (w : Word) : (s.setPc w).stack = s.stack := rfl
@[simp] theorem State.setPc_sp (w : Word) : (s.setPc w).sp = s.sp := rfl
@[simp] theorem State.setPc_delay (w : Word) : (s.setPc w).delay = s.delay := rfl
@[simp] theorem State.setPc_accI (w : Word) : (s.setPc w).accI = s.accI := rfl
@[simp] theorem State.setPc_accT (w : Word) : (s.setPc w).accT = s.accT := rfl
@[simp] theorem State.setPc_mem (w : Word) : (s.setPc w).mem = s.mem := rfl
@[simp] theorem State.setPc_pixels (w : Word) : (s.setPc w).pixels = s.pixels := rfl
@[simp] theorem State.setPc_latch (w : Word) : (s.setPc w).latch = s.latch := rfl
@[simp] theorem State.setPc_fault (w : Word) : (s.setPc w).fault = s.fault := rfl
@[simp] theorem State.setPc_update (w : Word) : (s.setPc w).update = s.update := rfl
@[simp] theorem State.setPc_cfg (w : Word) : (s.setPc w).cfg = s.cfg := rfl
@[simp] theorem State.setPc_draws (w : Word) : (s.setPc w).draws = s.draws := rfl
@[simp] theorem State.setPc_events (w : Word) : (s.setPc w).events = s.events := rfl
@[simp] theorem State.setPc_script (w : Word) : (s.setPc w).script = s.script := rfl
@[simp] theorem State.setPc_reg (w : Word) (r : Nibble) : (s.setPc w).reg r = s.reg r := rfl
@[simp] theorem State.setPc_byteAt (w : Word) (q : Nat) : (s.setPc w).byteAt q = s.byteAt q := rfl
@[simp] theorem State.setPc_slot (w : Word) (j : Nat) : (s.setPc w).slot j = s.slot j := rfl
@[simp] theorem State.setPc_pixel (w : Word) (px : Fin 64) (py : Fin 32) : (s.setPc w).pixel px py = s.pixel px py := rfl

/-! ## advance -/

@[simp] theorem State.advance_v : (s.advance).v = s.v := rfl
@[simp] theorem State.advance_i : (s.advance).i = s.i := rfl
@[simp] theorem State.advance_pc : (s.advance).pc = s.pc + 2 := rfl
@[simp] theorem State.advance_stack : (s.advance).stack = s.stack := rfl
@[simp] theorem State.advance_sp : (s.advance).sp = s.sp := rfl
@[simp] theorem State.advance_delay : (s.advance).delay = s.delay := rfl
@[simp] theorem State.advance_accI : (s.advance).accI = s.accI := rfl
@[simp] theorem State.advance_accT : (s.advance).accT = s.accT := rfl
@[simp] theorem State.advance_mem : (s.advance).mem = s.mem := rfl
@[simp] theorem State.advance_pixels : (s.advance).pixels = s.pixels := rfl
@[simp] theorem State.advance_latch : (s.advance).latch = s.latch := rfl
@[simp] theorem State.advance_fault : (s.advance).fault = s.fault := rfl
@[simp] theorem State.advance_update : (s.advance).update = s.update := rfl
@[simp] theorem State.advance_cfg : (s.advance).cfg = s.cfg := rfl
@[simp] theorem State.advance_draws : (s.advance).draws = s.draws := rfl
@[simp] theorem State.advance_events : (s.advance).events = s.events := rfl
@[simp] theorem State.advance_script : (s.advance).script = s.script := rfl
@[simp] theorem State.advance_reg (r : Nibble) : (s.advance).reg r = s.reg r := rfl
@[simp] theorem State.advance_byteAt (q : Nat) : (s.advance).byteAt q = s.byteAt q := rfl
@[simp] theorem State.advance_slot (j : Nat) : (s.advance).slot j = s.slot j := rfl
@[simp] theorem State.advance_pixel (px : Fin 64) (py : Fin 32) : (s.advance).pixel px py = s.pixel px py := rfl

/-! ## setDelay -/

@[simp] theorem State.setDelay_v (b : Byte) : (s.setDelay b).v = s.v := rfl
@[simp] theorem State.setDelay_i (b : Byte) : (s.setDelay b).i = s.i := rfl
@[simp] theorem State.setDelay_pc (b : Byte) : (s.setDelay b).pc = s.pc := rfl
@[simp] theorem State.setDelay_stack (b : Byte) : (s.setDelay b).stack = s.stack := rfl
@[simp] theorem State.setDelay_sp (b : Byte) : (s.setDelay b).sp = s.sp := rfl
@[simp] theorem State.setDelay_delay (b : Byte) : (s.setDelay b).delay = b := rfl
@[simp] theorem State.setDelay_accI (b : Byte) : (s.setDelay b).accI = s.accI := rfl
@[simp] theorem State.setDelay_accT (b : Byte) : (s.setDelay b).accT = s.accT := rfl
@[simp] theorem State.setDelay_mem (b : Byte) : (s.setDelay b).mem = s.mem := rfl
@[simp] theorem State.setDelay_pixels (b : Byte) : (s.setDelay b).pixels = s.pixels := rfl
@[simp] theorem State.setDelay_latch (b : Byte) : (s.setDelay b).latch = s.latch := rfl
@[simp] theorem State.setDelay_fault (b : Byte) : (s.setDelay b).fault = s.fault := rfl
@[simp] theorem State.setDelay_update (b : Byte) : (s.setDelay b).update = s.update := rfl
@[simp] theorem State.setDelay_cfg (b : Byte) : (s.setDelay b).cfg = s.cfg := rfl
@[simp] theorem State.setDelay_draws (b : Byte) : (s.setDelay b).draws = s.draws := rfl
@[simp] theorem State.setDelay_events (b : Byte) : (s.setDelay b).events = s.events := rfl
@[simp] theorem State.setDelay_script (b : Byte) : (s.setDelay b).script = s.script := rfl
@[simp] theorem State.setDelay_reg (b : Byte) (r : Nibble) : (s.setDelay b).reg r = s.reg r := rfl
@[simp] theorem State.setDelay_byteAt (b : Byte) (q : Nat) : (s.setDelay b).byteAt q = s.byteAt q := rfl
@[simp] theorem State.setDelay_slot (b : Byte) (j : Nat) : (s.setDelay b).slot j = s.slot j := rfl
@[simp] theorem State.setDelay_pixel (b : Byte) (px : Fin 64) (py : Fin 32) : (s.setDelay b).pixel px py = s.pixel px py := rfl

/-! ## setAccI -/

@[simp] theorem State.setAccI_v (t : Seconds) : (s.setAccI t).v = s.v := rfl
@[simp] theorem State.setAccI_i (t : Seconds) : (s.setAccI t).i = s.i := rfl
@[simp] theorem State.setAccI_pc (t : Seconds) : (s.setAccI t).pc = s.pc := rfl
@[simp] theorem State.setAccI_stack (t : Seconds) : (s.setAccI t).stack = s.stack := rfl
@[simp] theorem State.setAccI_sp (t : Seconds) : (s.setAccI t).sp = s.sp := rfl
@[simp] theorem State.setAccI_delay (t : Seconds) : (s.setAccI t).delay = s.delay := rfl
@[simp] theorem State.setAccI_accI (t : Seconds) : (s.setAccI t).accI = t := rfl
@[simp] theorem State.setAccI_accT (t : Seconds) : (s.setAccI t).accT = s.accT := rfl
@[simp] theorem State.setAccI_mem (t : Seconds) : (s.setAccI t).mem = s.mem := rfl
@[simp] theorem State.setAccI_pixels (t : Seconds) : (s.setAccI t).pixels = s.pixels := rfl
@[simp] theorem State.setAccI_latch (t : Seconds) : (s.setAccI t).latch = s.latch := rfl
@[simp] theorem State.setAccI_fault (t : Seconds) : (s.setAccI t).fault = s.fault := rfl
@[simp] theorem State.setAccI_update (t : Seconds) : (s.setAccI t).update = s.update := rfl
@[simp] theorem State.setAccI_cfg (t : Seconds) : (s.setAccI t).cfg = s.cfg := rfl
@[simp] theorem State.setAccI_draws (t : Seconds) : (s.setAccI t).draws = s.draws := rfl
@[simp] theorem State.setAccI_events (t : Seconds) : (s.setAccI t).events = s.events := rfl
@[simp] theorem State.setAccI_script (t : Seconds) : (s.setAccI t).script = s.script := rfl
@[simp] theorem State.setAccI_reg (t : Seconds) (r : Nibble) : (s.setAccI t).reg r = s.reg r := rfl
@[simp] theorem State.setAccI_byteAt (t : Seconds) (q : Nat) : (s.setAccI t).byteAt q = s.byteAt q := rfl
@[simp] theorem State.setAccI_slot (t : Seconds) (j : Nat) : (s.setAccI t).slot j = s.slot j := rfl
@[simp] theorem State.setAccI_pixel (t : Seconds) (px : Fin 64) (py : Fin 32) : (s.setAccI t).pixel px py = s.pixel px py := rfl

/-! ## setAccT -/

@[simp] theorem State.setAccT_v (t : Seconds) : (s.setAccT t).v = s.v := rfl
@[simp] theorem State.setAccT_i (t : Seconds) : (s.setAccT t).i = s.i := rfl
@[simp] theorem State.setAccT_pc (t : Seconds) : (s.setAccT t).pc = s.pc := rfl
@[simp] theorem State.setAccT_stack (t : Seconds) : (s.setAccT t).stack = s.stack := rfl
@[simp] theorem State.setAccT_sp (t : Seconds) : (s.setAccT t).sp = s.sp := rfl
@[simp] theorem State.setAccT_delay (t : Seconds) : (s.setAccT t).delay = s.delay := rfl
@[simp] theorem State.setAccT_accI (t : Seconds) : (s.setAccT t).accI = s.accI := rfl
@[simp] theorem State.setAccT_accT (t : Seconds) : (s.setAccT t).accT = t := rfl
@[simp] theorem State.setAccT_mem (t : Seconds) : (s.setAccT t).mem = s.mem := rfl
@[simp] theorem State.setAccT_pixels (t : Seconds) : (s.setAccT t).pixels = s.pixels := rfl
@[simp] theorem State.setAccT_latch (t : Seconds) : (s.setAccT t).latch = s.latch := rfl
@[simp] theorem State.setAccT_fault (t : Seconds) : (s.setAccT t).fault = s.fault := rfl
@[simp] theorem State.setAccT_update (t : Seconds) : (s.setAccT t).update = s.update := rfl
@[simp] theorem State.setAccT_cfg (t : Seconds) : (s.setAccT t).cfg = s.cfg := rfl
@[simp] theorem State.setAccT_draws (t : Seconds) : (s.setAccT t).draws = s.draws := rfl
@[simp] theorem State.setAccT_events (t : Seconds) : (s.setAccT t).events = s.events := rfl
@[simp] theorem State.setAccT_script (t : Seconds) : (s.setAccT t).script = s.script := rfl
@[simp] theorem State.setAccT_reg (t : Seconds) (r : Nibble) : (s.setAccT t).reg r = s.reg r := rfl
@[simp] theorem State.setAccT_byteAt (t : Seconds) (q : Nat) : (s.setAccT t).byteAt q = s.byteAt q := rfl
@[simp] theorem State.setAccT_slot (t : Seconds) (j : Nat) : (s.setAccT t).slot j = s.slot j := rfl
@[simp] theorem State.setAccT_pixel (t : Seconds) (px : Fin 64) (py : Fin 32) : (s.setAccT t).pixel px py = s.pixel px py := rfl

/-! ## setMem -/

@[simp] theorem State.setMem_v (m : Memory) : (s.setMem m).v = s.v := rfl
@[simp] theorem State.setMem_i (m : Memory) : (s.setMem m).i = s.i := rfl
@[simp] theorem State.setMem_pc (m : Memory) : (s.setMem m).pc = s.pc := rfl
@[simp] theorem State.setMem_stack (m : Memory) : (s.setMem m).stack = s.stack := rfl
@[simp] theorem State.setMem_sp (m : Memory) : (s.setMem m).sp = s.sp := rfl
@[simp] theorem State.setMem_delay (m : Memory) : (s.setMem m).delay = s.delay := rfl
@[simp] theorem State.setMem_accI (m : Memory) : (s.setMem m).accI = s.accI := rfl
@[simp] theorem State.setMem_accT (m : Memory) : (s.setMem m).accT = s.accT := rfl
@[simp] theorem State.setMem_mem (m : Memory) : (s.setMem m).mem = m := rfl
@[simp] theorem State.setMem_pixels (m : Memory) : (s.setMem m).pixels = s.pixels := rfl
@[simp] theorem State.setMem_latch (m : Memory) : (s.setMem m).latch = s.latch := rfl
@[simp] theorem State.setMem_fault (m : Memory) : (s.setMem m).fault = s.fault := rfl
@[simp] theorem State.setMem_update (m : Memory) : (s.setMem m).update = s.update := rfl
@[simp] theorem State.setMem_cfg (m : Memory) : (s.setMem m).cfg = s.cfg := rfl
@[simp] theorem State.setMem_draws (m : Memory) : (s.setMem m).draws = s.draws := rfl
@[simp] theorem State.setMem_events (m : Memory) : (s.setMem m).events = s.events := rfl
@[simp] theorem State.setMem_script (m : Memory) : (s.setMem m).script = s.script := rfl
@[simp] theorem State.setMem_reg (m : Memory) (r : Nibble) : (s.setMem m).reg r = s.reg r := rfl
@[simp] theorem State.setMem_slot (m : Memory) (j : Nat) : (s.setMem m).slot j = s.slot j := rfl
@[simp] theorem State.setMem_pixel (m : Memory) (px : Fin 64) (py : Fin 32) : (s.setMem m).pixel px py = s.pixel px py := rfl

/-! ## storeBytes -/

@[simp] theorem State.storeBytes_v (a : Nat) (ws : List Byte) : (s.storeBytes a ws).v = s.v := rfl
@[simp] theorem State.storeBytes_i (a : Nat) (ws : List Byte) : (s.storeBytes a ws).i = s.i := rfl
@[simp] theorem State.storeBytes_pc (a : Nat) (ws : List Byte) : (s.storeBytes a ws).pc = s.pc := rfl
@[simp] theorem State.storeBytes_stack (a : Nat) (ws : List Byte) : (s.storeBytes a ws).stack = s.stack := rfl
@[simp] theorem State.storeBytes_sp (a : Nat) (ws : List Byte) : (s.storeBytes a ws).sp = s.sp := rfl
@[simp] theorem State.storeBytes_delay (a : Nat) (ws : List Byte) : (s.storeBytes a ws).delay = s.delay := rfl
@[simp] theorem State.storeBytes_accI (a : Nat) (ws : List Byte) : (s.storeBytes a ws).accI = s.accI := rfl
@[simp] theorem State.storeBytes_accT (a : Nat) (ws : List Byte) : (s.storeBytes a ws).accT = s.accT := rfl
@[simp] theorem State.storeBytes_mem (a : Nat) (ws : List Byte) : (s.storeBytes a ws).mem = Memory.writeList s.cfg s.mem a ws := rfl
@[simp] theorem State.storeBytes_pixels (a : Nat) (ws : List Byte) : (s.storeBytes a ws).pixels = s.pixels := rfl
@[simp] theorem State.storeBytes_latch (a : Nat) (ws : List Byte) : (s.storeBytes a ws).latch = s.latch := rfl
@[simp] theorem State.storeBytes_fault (a : Nat) (ws : List Byte) : (s.storeBytes a ws).fault = s.fault := rfl
@[simp] theorem State.storeBytes_update (a : Nat) (ws : List Byte) : (s.storeBytes a ws).update = s.update := rfl
@[simp] theorem State.storeBytes_cfg (a : Nat) (ws : List Byte) : (s.storeBytes a ws).cfg = s.cfg := rfl
@[simp] theorem State.storeBytes_draws (a : Nat) (ws : List Byte) : (s.storeBytes a ws).draws = s.draws := rfl
@[simp] theorem State.storeBytes_events (a : Nat) (ws : List Byte) : (s.storeBytes a ws).events = s.events := rfl
@[simp] theorem State.storeBytes_script (a : Nat) (ws : List Byte) : (s.storeBytes a ws).script = s.script := rfl
@[simp] theorem State.storeBytes_reg (a : Nat) (ws : List Byte) (r : Nibble) : (s.storeBytes a ws).reg r = s.reg r := rfl
@[simp] theorem State.storeBytes_slot (a : Nat) (ws : List Byte) (j : Nat) : (s.storeBytes a ws).slot j = s.slot j := rfl
@[simp] theorem State.storeBytes_pixel (a : Nat) (ws : List Byte) (px : Fin 64) (py : Fin 32) : (s.storeBytes a ws).pixel px py = s.pixel px py := rfl

/-! ## setPixels -/

@[simp] theorem State.setPixels_v (g : Grid) : (s.setPixels g).v = s.v := rfl
@[simp] theorem State.setPixels_i (g : Grid) : (s.setPixels g).i = s.i := rfl
@[simp] theorem State.setPixels_pc (g : Grid) : (s.setPixels g).pc = s.pc := rfl
@[simp] theorem State.setPixels_stack (g : Grid) : (s.setPixels g).stack = s.stack := rfl
@[simp] theorem State.setPixels_sp (g : Grid) : (s.setPixels g).sp = s.sp := rfl
@[simp] theorem State.setPixels_delay (g : Grid) : (s.setPixels g).delay = s.delay := rfl
@[simp] theorem State.setPixels_accI (g : Grid) : (s.setPixels g).accI = s.accI := rfl
@[simp] theorem State.setPixels_accT (g : Grid) : (s.setPixels g).accT = s.accT := rfl
@[simp] theorem State.setPixels_mem (g : Grid) : (s.setPixels g).mem = s.mem := rfl
@[simp] theorem State.setPixels_pixels (g : Grid) : (s.setPixels g).pixels = g := rfl
@[simp] theorem State.setPixels_latch (g : Grid) : (s.setPixels g).latch = s.latch := rfl
@[simp] theorem State.setPixels_fault (g : Grid) : (s.setPixels g).fault = s.fault := rfl
@[simp] theorem State.setPixels_update (g : Grid) : (s.setPixels g).update = s.update := rfl
@[simp] theorem State.setPixels_cfg (g : Grid) : (s.setPixels g).cfg = s.cfg := rfl
@[simp] theorem State.setPixels_draws (g : Grid) : (s.setPixels g).draws = s.draws := rfl
@[simp] theorem State.setPixels_events (g : Grid) : (s.setPixels g).events = s.events := rfl
@[simp] theorem State.setPixels_script (g : Grid) : (s.setPixels g).script = s.script := rfl
@[simp] theorem State.setPixels_reg (g : Grid) (r : Nibble) : (s.setPixels g).reg r = s.reg r := rfl
@[simp] theorem State.setPixels_byteAt (g : Grid) (q : Nat) : (s.setPixels g).byteAt q = s.byteAt q := rfl
@[simp] theorem State.setPixels_slot (g : Grid) (j : Nat) : (s.setPixels g).slot j = s.slot j := rfl

/-! ## setLatch -/

@[simp] theorem State.setLatch_v (l : List Nibble) : (s.setLatch l).v = s.v := rfl
@[simp] theorem State.setLatch_i (l : List Nibble) : (s.setLatch l).i = s.i := rfl
@[simp] theorem State.setLatch_pc (l : List Nibble) : (s.setLatch l).pc = s.pc := rfl
@[simp] theorem State.setLatch_stack (l : List Nibble) : (s.setLatch l).stack = s.stack := rfl
@[simp] theorem State.setLatch_sp (l : List Nibble) : (s.setLatch l).sp = s.sp := rfl
@[simp] theorem State.setLatch_delay (l : List Nibble) : (s.setLatch l).delay = s.delay := rfl
@[simp] theorem State.setLatch_accI (l : List Nibble) : (s.setLatch l).accI = s.accI := rfl
@[simp] theorem State.setLatch_accT (l : List Nibble) : (s.setLatch l).accT = s.accT := rfl
@[simp] theorem State.setLatch_mem (l : List Nibble) : (s.setLatch l).mem = s.mem := rfl
@[simp] theorem State.setLatch_pixels (l : List Nibble) : (s.setLatch l).pixels = s.pixels := rfl
@[simp] theorem State.setLatch_latch (l : List Nibble) : (s.setLatch l).latch = l := rfl
@[simp] theorem State.setLatch_fault (l : List Nibble) : (s.setLatch l).fault = s.fault := rfl
@[simp] theorem State.setLatch_update (l : List Nibble) : (s.setLatch l).update = s.update := rfl
@[simp] theorem State.setLatch_cfg (l : List Nibble) : (s.setLatch l).cfg = s.cfg := rfl
@[simp] theorem State.setLatch_draws (l : List Nibble) : (s.setLatch l).draws = s.draws := rfl
@[simp] theorem State.setLatch_events (l : List Nibble) : (s.setLatch l).events = s.events := rfl
@[simp] theorem State.setLatch_script (l : List Nibble) : (s.setLatch l).script = s.script := rfl
@[simp] theorem State.setLatch_reg (l : List Nibble) (r : Nibble) : (s.setLatch l).reg r = s.reg r := rfl
@[simp] theorem State.setLatch_byteAt (l : List Nibble) (q : Nat) : (s.setLatch l).byteAt q = s.byteAt q := rfl
@[simp] theorem State.setLatch_slot (l : List Nibble) (j : Nat) : (s.setLatch l).slot j = s.slot j := rfl
@[simp] theorem State.setLatch_pixel (l : List Nibble) (px : Fin 64) (py : Fin 32) : (s.setLatch l).pixel px py = s.pixel px py := rfl

/-! ## setFault -/

@[simp] theorem State.setFault_v (f : Option FaultRecord) : (s.setFault f).v = s.v := rfl
@[simp] theorem State.setFault_i (f : Option FaultRecord) : (s.setFault f).i = s.i := rfl
@[simp] theorem State.setFault_pc (f : Option FaultRecord) : (s.setFault f).pc = s.pc := rfl
@[simp] theorem State.setFault_stack (f : Option FaultRecord) : (s.setFault f).stack = s.stack := rfl
@[simp] theorem State.setFault_sp (f : Option FaultRecord) : (s.setFault f).sp = s.sp := rfl
@[simp] theorem State.setFault_delay (f : Option FaultRecord) : (s.setFault f).delay = s.delay := rfl
@[simp] theorem State.setFault_accI (f : Option FaultRecord) : (s.setFault f).accI = s.accI := rfl
@[simp] theorem State.setFault_accT (f : Option FaultRecord) : (s.setFault f).accT = s.accT := rfl
@[simp] theorem State.setFault_mem (f : Option FaultRecord) : (s.setFault f).mem = s.mem := rfl
@[simp] theorem State.setFault_pixels (f : Option FaultRecord) : (s.setFault f).pixels = s.pixels := rfl
@[simp] theorem State.setFault_latch (f : Option FaultRecord) : (s.setFault f).latch = s.latch := rfl
@[simp] theorem State.setFault_fault (f : Option FaultRecord) : (s.setFault f).fault = f := rfl
@[simp] theorem State.setFault_update (f : Option FaultRecord) : (s.setFault f).update = s.update := rfl
@[simp] theorem State.setFault_cfg (f : Option FaultRecord) : (s.setFault f).cfg = s.cfg := rfl
@[simp] theorem State.setFault_draws (f : Option FaultRecord) : (s.setFault f).draws = s.draws := rfl
@[simp] theorem State.setFault_events (f : Option FaultRecord) : (s.setFault f).events = s.events := rfl
@[simp] theorem State.setFault_script (f : Option FaultRecord) : (s.setFault f).script = s.script := rfl
@[simp] theorem State.setFault_reg (f : Option FaultRecord) (r : Nibble) : (s.setFault f).reg r = s.reg r := rfl
@[simp] theorem State.setFault_byteAt (f : Option FaultRecord) (q : Nat) : (s.setFault f).byteAt q = s.byteAt q := rfl
@[simp] theorem State.setFault_slot (f : Option FaultRecord) (j : Nat) : (s.setFault f).slot j = s.slot j := rfl
@[simp] theorem State.setFault_pixel (f : Option FaultRecord) (px : Fin 64) (py : Fin 32) : (s.setFault f).pixel px py = s.pixel px py := rfl

/-! ## setUpdate -/

@[simp] theorem State.setUpdate_v (u : Option UpdateCall) : (s.setUpdate u).v = s.v := rfl
@[simp] theorem State.setUpdate_i (u : Option UpdateCall) : (s.setUpdate u).i = s.i := rfl
@[simp] theorem State.setUpdate_pc (u : Option UpdateCall) : (s.setUpdate u).pc = s.pc := rfl
@[simp] theorem State.setUpdate_stack (u : Option UpdateCall) : (s.setUpdate u).stack = s.stack := rfl
@[simp] theorem State.setUpdate_sp (u : Option UpdateCall) : (s.setUpdate u).sp = s.sp := rfl
@[simp] theorem State.setUpdate_delay (u : Option UpdateCall) : (s.setUpdate u).delay = s.delay := rfl
@[simp] theorem State.setUpdate_accI (u : Option UpdateCall) : (s.setUpdate u).accI = s.accI := rfl
@[simp] theorem State.setUpdate_accT (u : Option UpdateCall) : (s.setUpdate u).accT = s.accT := rfl
@[simp] theorem State.setUpdate_mem (u : Option UpdateCall) : (s.setUpdate u).mem = s.mem := rfl
@[simp] theorem State.setUpdate_pixels (u : Option UpdateCall) : (s.setUpdate u).pixels = s.pixels := rfl
@[simp] theorem State.setUpdate_latch (u : Option UpdateCall) : (s.setUpdate u).latch = s.latch := rfl
@[simp] theorem State.setUpdate_fault (u : Option UpdateCall) : (s.setUpdate u).fault = s.fault := rfl
@[simp] theorem State.setUpdate_update (u : Option UpdateCall) : (s.setUpdate u).update = u := rfl
@[simp] theorem State.setUpdate_cfg (u : Option UpdateCall) : (s.setUpdate u).cfg = s.cfg := rfl
@[simp] theorem State.setUpdate_draws (u : Option UpdateCall) : (s.setUpdate u).draws = s.draws := rfl
@[simp] theorem State.setUpdate_events (u : Option UpdateCall) : (s.setUpdate u).events = s.events := rfl
@[simp] theorem State.setUpdate_script (u : Option UpdateCall) : (s.setUpdate u).script = s.script := rfl
@[simp] theorem State.setUpdate_reg (u : Option UpdateCall) (r : Nibble) : (s.setUpdate u).reg r = s.reg r := rfl
@[simp] theorem State.setUpdate_byteAt (u : Option UpdateCall) (q : Nat) : (s.setUpdate u).byteAt q = s.byteAt q := rfl
@[simp] theorem State.setUpdate_slot (u : Option UpdateCall) (j : Nat) : (s.setUpdate u).slot j = s.slot j := rfl
@[simp] theorem State.setUpdate_pixel (u : Option UpdateCall) (px : Fin 64) (py : Fin 32) : (s.setUpdate u).pixel px py = s.pixel px py := rfl

/-! ## setScript -/

@[simp] theorem State.setScript_v (ms : List HostMove) : (s.setScript ms).v = s.v := rfl
@[simp] theorem State.setScript_i (ms : List HostMove) : (s.setScript ms).i = s.i := rfl
@[simp] theorem State.setScript_pc (ms : List HostMove) : (s.setScript ms).pc = s.pc := rfl
@[simp] theorem State.setScript_stack (ms : List HostMove) : (s.setScript ms).stack = s.stack := rfl
@[simp] theorem State.setScript_sp (ms : List HostMove) : (s.setScript ms).sp = s.sp := rfl
@[simp] theorem State.setScript_delay (ms : List HostMove) : (s.setScript ms).delay = s.delay := rfl
@[simp] theorem State.setScript_accI (ms : List HostMove) : (s.setScript ms).accI = s.accI := rfl
@[simp] theorem State.setScript_accT (ms : List HostMove) : (s.setScript ms).accT = s.accT := rfl
@[simp] theorem State.setScript_mem (ms : List HostMove) : (s.setScript ms).mem = s.mem := rfl
@[simp] theorem State.setScript_pixels (ms : List HostMove) : (s.setScript ms).pixels = s.pixels := rfl
@[simp] theorem State.setScript_latch (ms : List HostMove) : (s.setScript ms).latch = s.latch := rfl
@[simp] theorem State.setScript_fault (ms : List HostMove) : (s.setScript ms).fault = s.fault := rfl
@[simp] theorem State.setScript_update (ms : List HostMove) : (s.setScript ms).update = s.update := rfl
@[simp] theorem State.setScript_cfg (ms : List HostMove) : (s.setScript ms).cfg = s.cfg := rfl
@[simp] theorem State.setScript_draws (ms : List HostMove) : (s.setScript ms).draws = s.draws := rfl
@[simp] theorem State.setScript_events (ms : List HostMove) : (s.setScript ms).events = s.events := rfl
@[simp] theorem State.setScript_script (ms : List HostMove) : (s.setScript ms).script = ms := rfl
@[simp] theorem State.setScript_reg (ms : List HostMove) (r : Nibble) : (s.setScript ms).reg r = s.reg r := rfl
@[simp] theorem State.setScript_byteAt (ms : List HostMove) (q : Nat) : (s.setScript ms).byteAt q = s.byteAt q := rfl
@[simp] theorem State.setScript_slot (ms : List HostMove) (j : Nat) : (s.setScript ms).slot j = s.slot j := rfl
@[simp] theorem State.setScript_pixel (ms : List HostMove) (px : Fin 64) (py : Fin 32) : (s.setScript ms).pixel px py = s.pixel px py := rfl

/-! ## setStack -/

@[simp] theorem State.setStack_v (st : List Word) (p : Nat) : (s.setStack st p).v = s.v := rfl
@[simp] theorem State.setStack_i (st : List Word) (p : Nat) : (s.setStack st p).i = s.i := rfl
@[simp] theorem State.setStack_pc (st : List Word) (p : Nat) : (s.setStack st p).pc = s.pc := rfl
@[simp] theorem State.setStack_stack (st : List Word) (p : Nat) : (s.setStack st p).stack = st := rfl
@[simp] theorem State.setStack_sp (st : List Word) (p : Nat) : (s.setStack st p).sp = p := rfl
@[simp] theorem State.setStack_delay (st : List Word) (p : Nat) : (s.setStack st p).delay = s.delay := rfl
@[simp] theorem State.setStack_accI (st : List Word) (p : Nat) : (s.setStack st p).accI = s.accI := rfl
@[simp] theorem State.setStack_accT (st : List Word) (p : Nat) : (s.setStack st p).accT = s.accT := rfl
@[simp] theorem State.setStack_mem (st : List Word) (p : Nat) : (s.setStack st p).mem = s.mem := rfl
@[simp] theorem State.setStack_pixels (st : List Word) (p : Nat) : (s.setStack st p).pixels = s.pixels := rfl
@[simp] theorem State.setStack_latch (st : List Word) (p : Nat) : (s.setStack st p).latch = s.latch := rfl
@[simp] theorem State.setStack_fault (st : List Word) (p : Nat) : (s.setStack st p).fault = s.fault := rfl
@[simp] theorem State.setStack_update (st : List Word) (p : Nat) : (s.setStack st p).update = s.update := rfl
@[simp] theorem State.setStack_cfg (st : List Word) (p : Nat) : (s.setStack st p).cfg = s.cfg := rfl
@[simp] theorem State.setStack_draws (st : List Word) (p : Nat) : (s.setStack st p).draws = s.draws := rfl
@[simp] theorem State.setStack_events (st : List Word) (p : Nat) : (s.setStack st p).events = s.events := rfl
@[simp] theorem State.setStack_script (st : List Word) (p : Nat) : (s.setStack st p).script = s.script := rfl
@[simp] theorem State.setStack_reg (st : List Word) (p : Nat) (r : Nibble) : (s.setStack st p).reg r = s.reg r := rfl
@[simp] theorem State.setStack_byteAt (st : List Word) (p : Nat) (q : Nat) : (s.setStack st p).byteAt q = s.byteAt q := rfl
@[simp] theorem State.setStack_pixel (st : List Word) (p : Nat) (px : Fin 64) (py : Fin 32) : (s.setStack st p).pixel px py = s.pixel px py := rfl

/-! ## nextDraw -/

@[simp] theorem State.nextDraw_v : (s.nextDraw).v = s.v := rfl
@[simp] theorem State.nextDraw_i : (s.nextDraw).i = s.i := rfl
@[simp] theorem State.nextDraw_pc : (s.nextDraw).pc = s.pc := rfl
@[simp] theorem State.nextDraw_stack : (s.nextDraw).stack = s.stack := rfl
@[simp] theorem State.nextDraw_sp : (s.nextDraw).sp = s.sp := rfl
@[simp] theorem State.nextDraw_delay : (s.nextDraw).delay = s.delay := rfl
@[simp] theorem State.nextDraw_accI : (s.nextDraw).accI = s.accI := rfl
@[simp] theorem State.nextDraw_accT : (s.nextDraw).accT = s.accT := rfl
@[simp] theorem State.nextDraw_mem : (s.nextDraw).mem = s.mem := rfl
@[simp] theorem State.nextDraw_pixels : (s.nextDraw).pixels = s.pixels := rfl
@[simp] theorem State.nextDraw_latch : (s.nextDraw).latch = s.latch := rfl
@[simp] theorem State.nextDraw_fault : (s.nextDraw).fault = s.fault := rfl
@[simp] theorem State.nextDraw_update : (s.nextDraw).update = s.update := rfl
@[simp] theorem State.nextDraw_cfg : (s.nextDraw).cfg = s.cfg := rfl
@[simp] theorem State.nextDraw_draws : (s.nextDraw).draws = s.draws + 1 := rfl
@[simp] theorem State.nextDraw_events : (s.nextDraw).events = s.events := rfl
@[simp] theorem State.nextDraw_script : (s.nextDraw).script = s.script := rfl
@[simp] theorem State.nextDraw_reg (r : Nibble) : (s.nextDraw).reg r = s.reg r := rfl
@[simp] theorem State.nextDraw_byteAt (q : Nat) : (s.nextDraw).byteAt q = s.byteAt q := rfl
@[simp] theorem State.nextDraw_slot (j : Nat) : (s.nextDraw).slot j = s.slot j := rfl
@[simp] theorem State.nextDraw_pixel (px : Fin 64) (py : Fin 32) : (s.nextDraw).pixel px py = s.pixel px py := rfl

/-! ## emitIf -/

@[simp] theorem State.emitIf_v (b : Bool) (e : Event) : (s.emitIf b e).v = s.v := by
  cases b <;> rfl
@[simp] theorem State.emitIf_i (b : Bool) (e : Event) : (s.emitIf b e).i = s.i := by
  cases b <;> rfl
@[simp] theorem State.emitIf_pc (b : Bool) (e : Event) : (s.emitIf b e).pc = s.pc := by
  cases b <;> rfl
@[simp] theorem State.emitIf_stack (b : Bool) (e : Event) : (s.emitIf b e).stack = s.stack := by
  cases b <;> rfl
@[simp] theorem State.emitIf_sp (b : Bool) (e : Event) : (s.emitIf b e).sp = s.sp := by
  cases b <;> rfl
@[simp] theorem State.emitIf_delay (b : Bool) (e : Event) : (s.emitIf b e).delay = s.delay := by
  cases b <;> rfl
@[simp] theorem State.emitIf_accI (b : Bool) (e : Event) : (s.emitIf b e).accI = s.accI := by
  cases b <;> rfl
@[simp] theorem State.emitIf_accT (b : Bool) (e : Event) : (s.emitIf b e).accT = s.accT := by
  cases b <;> rfl
@[simp] theorem State.emitIf_mem (b : Bool) (e : Event) : (s.emitIf b e).mem = s.mem := by
  cases b <;> rfl
@[simp] theorem State.emitIf_pixels (b : Bool) (e : Event) : (s.emitIf b e).pixels = s.pixels := by
  cases b <;> rfl
@[simp] theorem State.emitIf_latch (b : Bool) (e : Event) : (s.emitIf b e).latch = s.latch := by
  cases b <;> rfl
@[simp] theorem State.emitIf_fault (b : Bool) (e : Event) : (s.emitIf b e).fault = s.fault := by
  cases b <;> rfl
@[simp] theorem State.emitIf_update (b : Bool) (e : Event) : (s.emitIf b e).update = s.update := by
  cases b <;> rfl
@[simp] theorem State.emitIf_cfg (b : Bool) (e : Event) : (s.emitIf b e).cfg = s.cfg := by
  cases b <;> rfl
@[simp] theorem State.emitIf_draws (b : Bool) (e : Event) : (s.emitIf b e).draws = s.draws := by
  cases b <;> rfl
@[simp] theorem State.emitIf_events (b : Bool) (e : Event) : (s.emitIf b e).events = if b then s.events ++ [e] else s.events := by
  cases b <;> rfl
@[simp] theorem State.emitIf_script (b : Bool) (e : Event) : (s.emitIf b e).script = s.script := by
  cases b <;> rfl
@[simp] theorem State.emitIf_reg (b : Bool) (e : Event) (r : Nibble) : (s.emitIf b e).reg r = s.reg r := by
  cases b <;> rfl
@[simp] theorem State.emitIf_byteAt (b : Bool) (e : Event) (q : Nat) : (s.emitIf b e).byteAt q = s.byteAt q := by
  cases b <;> rfl
@[simp] theorem State.emitIf_slot (b : Bool) (e : Event) (j : Nat) : (s.emitIf b e).slot j = s.slot j := by
  cases b <;> rfl
@[simp] theorem State.emitIf_pixel (b : Bool) (e : Event) (px : Fin 64) (py : Fin 32) : (s.emitIf b e).pixel px py = s.pixel px py := by
  cases b <;> rfl

/-! ## skipIf -/

@[simp] theorem State.skipIf_v (b : Bool) : (s.skipIf b).v = s.v := by
  cases b <;> rfl
@[simp] theorem State.skipIf_i (b : Bool) : (s.skipIf b).i = s.i := by
  cases b <;> rfl
@[simp] theorem State.skipIf_pc (b : Bool) : (s.skipIf b).pc = if b then s.pc + 2 else s.pc := by
  cases b <;> rfl
@[simp] theorem State.skipIf_stack (b : Bool) : (s.skipIf b).stack = s.stack := by
  cases b <;> rfl
@[simp] theorem State.skipIf_sp (b : Bool) : (s.skipIf b).sp = s.sp := by
  cases b <;> rfl
@[simp] theorem State.skipIf_delay (b : Bool) : (s.skipIf b).delay = s.delay := by
  cases b <;> rfl
@[simp] theorem State.skipIf_accI (b : Bool) : (s.skipIf b).accI = s.accI := by
  cases b <;> rfl
@[simp] theorem State.skipIf_accT (b : Bool) : (s.skipIf b).accT = s.accT := by
  cases b <;> rfl
@[simp] theorem State.skipIf_mem (b : Bool) : (s.skipIf b).mem = s.mem := by
  cases b <;> rfl
@[simp] theorem State.skipIf_pixels (b : Bool) : (s.skipIf b).pixels = s.pixels := by
  cases b <;> rfl
@[simp] theorem State.skipIf_latch (b : Bool) : (s.skipIf b).latch = s.latch := by
  cases b <;> rfl
@[simp] theorem State.skipIf_fault (b : Bool) : (s.skipIf b).fault = s.fault := by
  cases b <;> rfl
@[simp] theorem State.skipIf_update (b : Bool) : (s.skipIf b).update = s.update := by
  cases b <;> rfl
@[simp] theorem State.skipIf_cfg (b : Bool) : (s.skipIf b).cfg = s.cfg := by
  cases b <;> rfl
@[simp] theorem State.skipIf_draws (b : Bool) : (s.skipIf b).draws = s.draws := by
  cases b <;> rfl
@[simp] theorem State.skipIf_events (b : Bool) : (s.skipIf b).events = s.events := by
  cases b <;> rfl
@[simp] theorem State.skipIf_script (b : Bool) : (s.skipIf b).script = s.script := by
  cases b <;> rfl
@[simp] theorem State.skipIf_reg (b : Bool) (r : Nibble) : (s.skipIf b).reg r = s.reg r := by
  cases b <;> rfl
@[simp] theorem State.skipIf_byteAt (b : Bool) (q : Nat) : (s.skipIf b).byteAt q = s.byteAt q := by
  cases b <;> rfl
@[simp] theorem State.skipIf_slot (b : Bool) (j : Nat) : (s.skipIf b).slot j = s.slot j := by
  cases b <;> rfl
@[simp] theorem State.skipIf_pixel (b : Bool) (px : Fin 64) (py : Fin 32) : (s.skipIf b).pixel px py = s.pixel px py := by
  cases b <;> rfl

end Sys2Proof.Machine
end

