-- ==== Sys2Proof/Laws/Memory.lean ====
section
/-! SUPPORT. Memory: read after write, a write leaves every other address alone, every operation keeps the canonical form. -/

namespace Sys2Proof.Machine

variable {c : Config}

/-- An address below every listed one reads as an unlisted address. -/
theorem Memory.read_below {m : Memory} {lo a : Nat} (h : Memory.rising lo m = true) (ha : a < lo) :
    Memory.read c m a = Memory.background c a := by
  induction m generalizing lo with
  | nil => rfl
  | cons cell rest ih =>
    obtain ⟨b, u⟩ := cell
    simp only [Memory.rising, Bool.and_eq_true, decide_eq_true_eq] at h
    have hne : a ≠ b := by omega
    simp only [Memory.read, hne, if_false]
    exact ih h.2 (by omega)

theorem Memory.read_cons_of_ne (a q : Nat) (w : Byte) (rest : Memory) (h : q ≠ a) :
    Memory.read c (Memory.cons c a w rest) q = Memory.read c rest q := by
  unfold Memory.cons
  split
  · rfl
  · simp [Memory.read, h]

theorem Memory.read_cons_same {a : Nat} (w : Byte) {rest : Memory} (h : Memory.rising (a + 1) rest = true) :
    Memory.read c (Memory.cons c a w rest) a = w := by
  unfold Memory.cons
  split
  · rename_i hw
    rw [hw]
    exact Memory.read_below h (Nat.lt_succ_self a)
  · simp [Memory.read]

/-- A write leaves every other address alone, whatever the form of the memory. -/
theorem Memory.read_write_of_ne (m : Memory) (a q : Nat) (w : Byte) (h : q ≠ a) :
    Memory.read c (Memory.write c m a w) q = Memory.read c m q := by
  induction m with
  | nil => exact Memory.read_cons_of_ne a q w [] h
  | cons cell rest ih =>
    obtain ⟨b, u⟩ := cell
    simp only [Memory.write]
    split_ifs with h1 h2
    · exact Memory.read_cons_of_ne a q w _ h
    · subst h2
      rw [Memory.read_cons_of_ne a q w _ h]
      simp [Memory.read, h]
    · simp only [Memory.read, ih]

theorem Memory.rising_mono {m : Memory} {lo lo' : Nat} (h : Memory.rising lo m = true) (hl : lo' ≤ lo) :
    Memory.rising lo' m = true := by
  cases m with
  | nil => rfl
  | cons cell rest =>
    obtain ⟨b, u⟩ := cell
    simp only [Memory.rising, Bool.and_eq_true, decide_eq_true_eq] at h ⊢
    exact ⟨by omega, h.2⟩

/-- A write gives the byte written. -/
theorem Memory.read_write_same {m : Memory} {lo : Nat} (h : Memory.rising lo m = true) (a : Nat) (w : Byte) :
    Memory.read c (Memory.write c m a w) a = w := by
  induction m generalizing lo with
  | nil => exact Memory.read_cons_same w rfl
  | cons cell rest ih =>
    obtain ⟨b, u⟩ := cell
    simp only [Memory.rising, Bool.and_eq_true, decide_eq_true_eq] at h
    simp only [Memory.write]
    split_ifs with h1 h2
    · exact Memory.read_cons_same w (by simp [Memory.rising, h.2]; omega)
    · subst h2
      exact Memory.read_cons_same w h.2
    · simp only [Memory.read, h2, if_false]
      exact ih h.2

theorem Memory.rising_cons {a lo : Nat} (w : Byte) {rest : Memory} (hlo : lo ≤ a)
    (h : Memory.rising (a + 1) rest = true) : Memory.rising lo (Memory.cons c a w rest) = true := by
  unfold Memory.cons
  split
  · exact Memory.rising_mono h (by omega)
  · simp [Memory.rising, hlo, h]

theorem Memory.rising_write {m : Memory} {lo : Nat} (h : Memory.rising lo m = true) {a : Nat} (ha : lo ≤ a)
    (w : Byte) : Memory.rising lo (Memory.write c m a w) = true := by
  induction m generalizing lo with
  | nil => exact Memory.rising_cons w ha rfl
  | cons cell rest ih =>
    obtain ⟨b, u⟩ := cell
    simp only [Memory.rising, Bool.and_eq_true, decide_eq_true_eq] at h
    simp only [Memory.write]
    split_ifs with h1 h2
    · exact Memory.rising_cons w ha (by simp [Memory.rising, h.2]; omega)
    · subst h2
      exact Memory.rising_cons w ha h.2
    · simp only [Memory.rising, Bool.and_eq_true, decide_eq_true_eq]
      exact ⟨h.1, ih h.2 (by omega)⟩

theorem Memory.proper_cons {a : Nat} (w : Byte) {rest : Memory} (ha : a ≤ 0xFFF)
    (h : Memory.proper c rest = true) : Memory.proper c (Memory.cons c a w rest) = true := by
  unfold Memory.cons
  split
  · exact h
  · rename_i hw
    simp [Memory.proper, ha, hw, h]

theorem Memory.proper_write {m : Memory} (h : Memory.proper c m = true) {a : Nat} (ha : a ≤ 0xFFF) (w : Byte) :
    Memory.proper c (Memory.write c m a w) = true := by
  induction m with
  | nil => exact Memory.proper_cons w ha rfl
  | cons cell rest ih =>
    obtain ⟨b, u⟩ := cell
    simp only [Memory.write]
    have h' := h
    simp only [Memory.proper, Bool.and_eq_true] at h
    split_ifs with h1 h2
    · exact Memory.proper_cons w ha h'
    · exact Memory.proper_cons w ha h.2
    · simp only [Memory.proper, Bool.and_eq_true]
      exact ⟨h.1, ih h.2⟩

/-- A write to an address that exists keeps the canonical form. -/
theorem Memory.wf_write {m : Memory} (h : Memory.wf c m = true) {a : Nat} (ha : a ≤ 0xFFF) (w : Byte) :
    Memory.wf c (Memory.write c m a w) = true := by
  simp only [Memory.wf, Bool.and_eq_true] at h ⊢
  exact ⟨Memory.rising_write h.1 (Nat.zero_le a) w, Memory.proper_write h.2 ha w⟩

/-- A write of consecutive bytes to addresses that exist keeps the canonical form. -/
theorem Memory.wf_writeList {m : Memory} (h : Memory.wf c m = true) (a : Nat) (ws : List Byte)
    (hb : a + ws.length ≤ 0x1000) : Memory.wf c (Memory.writeList c m a ws) = true := by
  induction ws generalizing m a with
  | nil => exact h
  | cons w ws ih =>
    simp only [List.length_cons] at hb
    exact ih (Memory.wf_write h (by omega) w) (a + 1) (by omega)

/-- Consecutive writes leave every address outside them alone. -/
theorem Memory.read_writeList_of_outside (m : Memory) (a q : Nat) (ws : List Byte)
    (h : q < a ∨ a + ws.length ≤ q) :
    Memory.read c (Memory.writeList c m a ws) q = Memory.read c m q := by
  induction ws generalizing m a with
  | nil => rfl
  | cons w ws ih =>
    simp only [List.length_cons] at h
    rw [Memory.writeList, ih _ _ (by omega), Memory.read_write_of_ne _ _ _ _ (by omega)]

/-- Consecutive writes give the bytes written. -/
theorem Memory.read_writeList_inside {m : Memory} (h : Memory.rising 0 m = true) (a : Nat) (ws : List Byte) (k : Nat)
    (hk : k < ws.length) : Memory.read c (Memory.writeList c m a ws) (a + k) = ws[k] := by
  induction ws generalizing m a k with
  | nil => simp at hk
  | cons w ws ih =>
    rw [Memory.writeList]
    cases k with
    | zero =>
      rw [Memory.read_writeList_of_outside _ _ _ _ (by omega)]
      exact Memory.read_write_same h a w
    | succ k =>
      have := ih (m := Memory.write c m a w) (Memory.rising_write h (Nat.zero_le a) w) (a + 1) k
        (by simpa using hk)
      rw [show a + (k + 1) = a + 1 + k by omega, this]
      rfl

/-- The empty memory of reset is canonical. -/
theorem Memory.wf_nil : Memory.wf c [] = true := rfl

/-- What one byte reads as after consecutive bytes are stored, said once for every address. -/
theorem State.byteAt_storeBytes {s : State} (h : Memory.wf s.cfg s.mem = true) (a : Nat) (ws : List Byte) (q : Nat) :
    (s.storeBytes a ws).byteAt q = if q < a then s.byteAt q else ws.getD (q - a) (s.byteAt q) := by
  simp only [Memory.wf, Bool.and_eq_true] at h
  unfold State.byteAt
  simp only [State.storeBytes_mem, State.storeBytes_cfg]
  split
  · exact Memory.read_writeList_of_outside _ _ _ _ (by omega)
  · by_cases hq : q - a < ws.length
    · have := Memory.read_writeList_inside (c := s.cfg) h.1 a ws (q - a) hq
      rw [show a + (q - a) = q by omega] at this
      rw [this]
      simp [List.getD, List.getElem?_eq_getElem hq]
    · rw [Memory.read_writeList_of_outside _ _ _ _ (by omega)]
      simp [List.getD, List.getElem?_eq_none (Nat.le_of_not_lt hq)]

/-- Stored bytes leave the others alone, whatever the form of the memory. -/
theorem State.byteAt_storeBytes_of_outside (s : State) (a : Nat) (ws : List Byte) (q : Nat)
    (h : q < a ∨ a + ws.length ≤ q) : (s.storeBytes a ws).byteAt q = s.byteAt q :=
  Memory.read_writeList_of_outside _ _ _ _ h

end Sys2Proof.Machine
end

