-- ==== Sys2Proof/Laws/Ops.lean ====
section
/-! SUPPORT. One lemma for each shared operation that says once everything it can do. -/

namespace Sys2Proof.Machine

/-- The bounds check passes exactly when every one of the `count` addresses exists. -/
theorem outOfRange_eq_none_iff (base count : Nat) :
    outOfRange base count = none ↔ ∀ k, k < count → base + k ≤ 0xFFF := by
  unfold outOfRange
  split_ifs with h1 h2
  · simp [h1]
  · simp only [true_iff]
    intro k hk
    omega
  · simp only [false_iff, not_forall]
    exact ⟨count - 1, by omega, by omega⟩

/-- When it fails it names the lowest address above 0xFFF that would be accessed. -/
theorem outOfRange_eq_some {base count a : Nat} (h : outOfRange base count = some a) :
    a = max base 0x1000 ∧ base + count - 1 > 0xFFF ∧ 0 < count := by
  unfold outOfRange at h
  split_ifs at h with h1 h2
  simp only [Option.some.injEq] at h
  exact ⟨h.symm, by omega, by omega⟩

@[simp] theorem State.reg_setReg (s : State) (x r : Nibble) (b : Byte) :
    (s.setReg x b).reg r = if r = x then b else s.reg r := by
  unfold State.reg
  simp only [State.setReg_v, Vector.getElem_set]
  by_cases h : r = x
  · simp [h]
  · have : x.toNat ≠ r.toNat := fun e => h (BitVec.eq_of_toNat_eq e.symm)
    simp [h, this]

@[simp] theorem State.reg_setRegs (s : State) (v : Vector Byte 16) (r : Nibble) :
    (s.setRegs v).reg r = v[r.toNat]'(r.isLt) := rfl

@[simp] theorem State.reg_setRegAndFlag (s : State) (x r : Nibble) (b : Byte) (f : Bool) :
    (s.setRegAndFlag x b f).reg r = if r = vf then flagByte f else if r = x then b else s.reg r := by
  simp [State.setRegAndFlag]

@[simp] theorem State.pixel_setPixels (s : State) (g : Grid) (x : Fin 64) (y : Fin 32) :
    (s.setPixels g).pixel x y = Grid.get g x y := rfl

@[simp] theorem Grid.get_put (g : Grid) (x x' : Fin 64) (y y' : Fin 32) (b : Bool) :
    Grid.get (Grid.put g x y b) x' y' = if x' = x ∧ y' = y then b else Grid.get g x' y' := by
  unfold Grid.get Grid.put
  simp only [Fin.getElem_fin, Vector.getElem_set, Fin.ext_iff]
  by_cases hy : (y : Nat) = y'
  · by_cases hx : (x : Nat) = x'
    · simp [hy, hx]
    · simp [hy, hx, Ne.symm hx]
  · simp [hy, Ne.symm hy]

@[simp] theorem Grid.get_blank (x : Fin 64) (y : Fin 32) : Grid.get Grid.blank x y = false := by
  simp [Grid.get, Grid.blank]

/-- `Push`: overflow exactly at capacity, otherwise the slot at `SP` and `SP` only. -/
theorem State.push_eq (s : State) (w : Word) :
    s.push w = if s.sp = s.cfg.stackDepth then none else some (s.setStack (s.stack.set s.sp w) (s.sp + 1)) := rfl

/-- `Pop`: underflow exactly when empty, otherwise the last valid slot, `SP` one less. -/
theorem State.pop_eq (s : State) :
    s.pop = if s.sp = 0 then none else some (s.slot (s.sp - 1), s.setStack s.stack (s.sp - 1)) := rfl

/-- The fetch: the big-endian word at `PC` where both bytes exist, otherwise nothing. -/
theorem State.fetch_eq (s : State) :
    s.fetch = if s.pc.toNat ≤ 0xFFE then some (wordOfBytes (s.byteAt s.pc.toNat) (s.byteAt (s.pc.toNat + 1))) else none := by
  have hr : outOfRange s.pc.toNat 2 = if s.pc.toNat ≤ 0xFFE then none else some (max s.pc.toNat 0x1000) := by
    unfold outOfRange
    split_ifs <;> first | rfl | omega
  unfold State.fetch
  rw [hr]
  split_ifs <;> rfl

/-- Taking a fault writes the latch and nothing else. -/
theorem State.raise_eq (s : State) (w : Word) (k : Cause) (info : Word) :
    s.raise w k info = .next (s.setFault (some (s.faultRecord w k info))) := rfl

/-- A digit list has three bytes. -/
@[simp] theorem digits_length (b : Byte) : (digits b).length = 3 := rfl

@[simp] theorem flagByte_eq (b : Bool) : flagByte b = if b then 0x01 else 0x00 := rfl

/-- The loaded register file: `V[0..X]` from memory, the others as they were. -/
theorem State.loadedRegs_get (s : State) (x r : Nibble) :
    (s.loadedRegs x)[r.toNat]'(r.isLt) = if r.toNat ≤ x.toNat then s.byteAt (s.indexed r.toNat) else s.reg r := by
  simp [State.loadedRegs, State.reg]

/-- A key of the latch, as an 8-bit value, is what `KeyPressed` looks for. -/
theorem State.keyPressed_iff (s : State) (k : Byte) :
    s.keyPressed k = true ↔ ∃ key ∈ s.latch, key.toNat = k.toNat := by
  have hw : ∀ key : Nibble, (key.setWidth 8).toNat = key.toNat := fun key => by
    have := key.isLt
    simp only [BitVec.toNat_setWidth]
    omega
  simp only [State.keyPressed, List.any_eq_true, beq_iff_eq]
  constructor
  · rintro ⟨key, hk, he⟩
    exact ⟨key, hk, by rw [← he, hw]⟩
  · rintro ⟨key, hk, he⟩
    exact ⟨key, hk, BitVec.eq_of_toNat_eq (by rw [hw, he])⟩

end Sys2Proof.Machine
end

