-- ==== Sys2Proof/Laws/Blit.lean ====
section
/-! SUPPORT. The sprite blit of spec/44_display.md R151 to R155: every destination cell is written once, so the fold over the
rows and columns is one exclusive or per cell and the collision one disjunction over the old cells. -/

namespace Sys2Proof.Machine

/-- A destination cell with its sprite bit. -/
abbrev Cell := Fin 64 × Fin 32 × Bool

/-- The cells of a sprite in the order the blit visits them. -/
def spriteCells (x0 y0 : Byte) (rows : List Byte) : List Cell :=
  rows.zipIdx.flatMap fun rb =>
    (List.range 8).map fun col => (screenX x0 col, screenY y0 rb.2, spriteBit rb.1 col)

def blitCell (k : Blit) (p : Cell) : Blit :=
  blitPixel k p.1 p.2.1 p.2.2

theorem blitSprite_eq_fold (x0 y0 : Byte) (rows : List Byte) (g : Grid) :
    blitSprite x0 y0 rows g =
      (spriteCells x0 y0 rows).foldl blitCell { grid := g, collision := false, changed := false } := by
  simp only [blitSprite, spriteCells, List.foldl_flatMap, List.foldl_map, blitRow, blitCell]

/-- What a blit over pairwise different cells does. -/
theorem blitCells_spec (cells : List Cell) (hn : (cells.map fun p => (p.1, p.2.1)).Nodup) (k : Blit) :
    (∀ x y, Grid.get (cells.foldl blitCell k).grid x y =
      Bool.xor (Grid.get k.grid x y) (cells.any fun p => decide (p.1 = x) && decide (p.2.1 = y) && p.2.2)) ∧
    (cells.foldl blitCell k).collision = (k.collision || cells.any fun p => Grid.get k.grid p.1 p.2.1 && p.2.2) ∧
    (cells.foldl blitCell k).changed = (k.changed || cells.any fun p => p.2.2) := by
  induction cells generalizing k with
  | nil => simp
  | cons p rest ih =>
    simp only [List.map_cons, List.nodup_cons] at hn
    obtain ⟨hg, hc, hm⟩ := ih hn.2 (blitCell k p)
    have hother : ∀ q ∈ rest, ¬ (q.1 = p.1 ∧ q.2.1 = p.2.1) := by
      intro q hq he
      exact hn.1 (List.mem_map.2 ⟨q, hq, by rw [he.1, he.2]⟩)
    refine ⟨?_, ?_, ?_⟩
    · intro x y
      rw [List.foldl_cons, hg x y, List.any_cons]
      simp only [blitCell, blitPixel, Grid.get_put]
      by_cases hp : x = p.1 ∧ y = p.2.1
      · have hrest : (rest.any fun q => decide (q.1 = x) && decide (q.2.1 = y) && q.2.2) = false := by
          rw [List.any_eq_false]
          intro q hq hh
          simp only [Bool.and_eq_true, decide_eq_true_eq] at hh
          exact hother q hq ⟨hh.1.1.trans hp.1, hh.1.2.trans hp.2⟩
        obtain ⟨rfl, rfl⟩ := hp
        simp [hrest]
      · have h0 : (decide (p.1 = x) && decide (p.2.1 = y) && p.2.2) = false := by
          by_contra hh
          simp only [Bool.not_eq_false, Bool.and_eq_true, decide_eq_true_eq] at hh
          exact hp ⟨hh.1.1.symm, hh.1.2.symm⟩
        simp [hp, h0]
    · rw [List.foldl_cons, hc, List.any_cons]
      have hsame : (rest.any fun q => Grid.get (blitCell k p).grid q.1 q.2.1 && q.2.2) =
          rest.any fun q => Grid.get k.grid q.1 q.2.1 && q.2.2 := by
        have : ∀ q ∈ rest, Grid.get (blitCell k p).grid q.1 q.2.1 = Grid.get k.grid q.1 q.2.1 := by
          intro q hq
          simp only [blitCell, blitPixel, Grid.get_put, if_neg (hother q hq)]
        rw [Bool.eq_iff_iff]
        simp only [List.any_eq_true, Bool.and_eq_true]
        constructor
        · rintro ⟨q, hq, h1, h2⟩
          exact ⟨q, hq, by rw [← this q hq]; exact h1, h2⟩
        · rintro ⟨q, hq, h1, h2⟩
          exact ⟨q, hq, by rw [this q hq]; exact h1, h2⟩
      rw [hsame]
      simp only [blitCell, blitPixel, Bool.or_assoc]
    · rw [List.foldl_cons, hm, List.any_cons]
      simp only [blitCell, blitPixel, Bool.or_assoc]

theorem screenX_val (x0 : Byte) (col : Nat) : (screenX x0 col).val = (x0.toNat + col) % 64 := rfl

theorem screenY_val (y0 : Byte) (row : Nat) : (screenY y0 row).val = (y0.toNat + row) % 32 := rfl

theorem mem_spriteCells (x0 y0 : Byte) (rows : List Byte) (p : Cell) :
    p ∈ spriteCells x0 y0 rows ↔
      ∃ row, ∃ h : row < rows.length, ∃ col, col < 8 ∧
        p = (screenX x0 col, screenY y0 row, spriteBit rows[row] col) := by
  simp only [spriteCells, List.mem_flatMap, List.mem_map, List.mem_range, Prod.exists]
  constructor
  · rintro ⟨b, row, hm, col, hc, rfl⟩
    rw [List.mem_zipIdx_iff_getElem?] at hm
    obtain ⟨hl, he⟩ := List.getElem?_eq_some_iff.1 hm
    exact ⟨row, hl, col, hc, by rw [he]⟩
  · rintro ⟨row, hl, col, hc, rfl⟩
    exact ⟨rows[row], row, by rw [List.mem_zipIdx_iff_getElem?]; exact List.getElem?_eq_getElem hl, col, hc, rfl⟩

/-- A sprite is 8 wide on a 64-wide screen and at most 32 tall on a 32-tall one: no cell is visited twice (R154). -/
theorem spriteCells_nodup (x0 y0 : Byte) (rows : List Byte) (h : rows.length ≤ 32) :
    ((spriteCells x0 y0 rows).map fun p => (p.1, p.2.1)).Nodup := by
  simp only [spriteCells, List.map_flatMap, List.map_map]
  rw [List.nodup_flatMap]
  constructor
  · rintro ⟨b, row⟩ _
    refine List.Nodup.map_on ?_ List.nodup_range
    intro c1 h1 c2 h2 he
    simp only [List.mem_range] at h1 h2
    simp only [Function.comp, Prod.mk.injEq, and_true, Fin.ext_iff, screenX_val] at he
    omega
  · rw [List.pairwise_iff_getElem]
    intro i j hi hj hij
    simp only [List.length_zipIdx] at hi hj
    simp only [Function.onFun, List.disjoint_left, List.mem_map, List.mem_range, List.getElem_zipIdx]
    rintro q ⟨c1, h1, rfl⟩ ⟨c2, h2, he⟩
    simp only [Function.comp, Prod.mk.injEq, Fin.ext_iff, screenX_val, screenY_val] at he
    omega

/-- A sprite bit 1 lands on the cell (`x`, `y`). -/
def spriteCovers (x0 y0 : Byte) (rows : List Byte) (x : Fin 64) (y : Fin 32) : Prop :=
  ∃ row, ∃ h : row < rows.length, ∃ col, col < 8 ∧
    (x0.toNat + col) % 64 = x.val ∧ (y0.toNat + row) % 32 = y.val ∧ rows[row].getLsbD (7 - col) = true

theorem spriteCells_any (x0 y0 : Byte) (rows : List Byte) (x : Fin 64) (y : Fin 32) :
    ((spriteCells x0 y0 rows).any fun p => decide (p.1 = x) && decide (p.2.1 = y) && p.2.2) = true ↔
      spriteCovers x0 y0 rows x y := by
  simp only [List.any_eq_true, Bool.and_eq_true, decide_eq_true_eq, mem_spriteCells, spriteCovers]
  constructor
  · rintro ⟨p, ⟨row, hl, col, hc, rfl⟩, ⟨hx, hy⟩, hb⟩
    exact ⟨row, hl, col, hc, by rw [← hx]; rfl, by rw [← hy]; rfl, hb⟩
  · rintro ⟨row, hl, col, hc, hx, hy, hb⟩
    exact ⟨_, ⟨row, hl, col, hc, rfl⟩, ⟨Fin.ext hx, Fin.ext hy⟩, hb⟩

/-- One exclusive or per cell (spec/44_display.md R151, R154). -/
theorem blitSprite_get (x0 y0 : Byte) (rows : List Byte) (h : rows.length ≤ 32) (g : Grid) (x : Fin 64) (y : Fin 32) :
    Grid.get (blitSprite x0 y0 rows g).grid x y = Bool.xor (Grid.get g x y)
      ((spriteCells x0 y0 rows).any fun p => decide (p.1 = x) && decide (p.2.1 = y) && p.2.2) := by
  rw [blitSprite_eq_fold]
  exact (blitCells_spec _ (spriteCells_nodup x0 y0 rows h) _).1 x y

/-- A pixel changes exactly when a sprite bit 1 lands on it. -/
theorem blitSprite_get_eq (x0 y0 : Byte) (rows : List Byte) (h : rows.length ≤ 32) (g : Grid) (x : Fin 64) (y : Fin 32) :
    (spriteCovers x0 y0 rows x y → Grid.get (blitSprite x0 y0 rows g).grid x y = !Grid.get g x y) ∧
    (¬ spriteCovers x0 y0 rows x y → Grid.get (blitSprite x0 y0 rows g).grid x y = Grid.get g x y) := by
  rw [blitSprite_get x0 y0 rows h]
  constructor
  · intro hc
    rw [(spriteCells_any x0 y0 rows x y).2 hc, Bool.xor_true]
  · intro hc
    rw [← spriteCells_any] at hc
    rw [Bool.not_eq_true _ |>.mp hc, Bool.xor_false]

/-- The collision flag: one disjunction over the whole sprite of "old pixel 1 and sprite bit 1" (spec/44_display.md R155). -/
theorem blitSprite_collision (x0 y0 : Byte) (rows : List Byte) (h : rows.length ≤ 32) (g : Grid) :
    (blitSprite x0 y0 rows g).collision = true ↔ ∃ x y, Grid.get g x y = true ∧ spriteCovers x0 y0 rows x y := by
  rw [blitSprite_eq_fold, (blitCells_spec _ (spriteCells_nodup x0 y0 rows h) _).2.1]
  simp only [Bool.false_or, List.any_eq_true, Bool.and_eq_true, mem_spriteCells, spriteCovers]
  constructor
  · rintro ⟨p, ⟨row, hl, col, hc, rfl⟩, ho, hb⟩
    exact ⟨screenX x0 col, screenY y0 row, ho, row, hl, col, hc, rfl, rfl, hb⟩
  · rintro ⟨x, y, ho, row, hl, col, hc, hx, hy, hb⟩
    have ex : screenX x0 col = x := Fin.ext hx
    have ey : screenY y0 row = y := Fin.ext hy
    exact ⟨_, ⟨row, hl, col, hc, rfl⟩, by rw [ex, ey]; exact ho, hb⟩

/-- Some pixel changes exactly when some sprite bit is 1 (spec/44_display.md R151). -/
theorem blitSprite_changed (x0 y0 : Byte) (rows : List Byte) (h : rows.length ≤ 32) (g : Grid) :
    (blitSprite x0 y0 rows g).changed = true ↔ ∃ x y, spriteCovers x0 y0 rows x y := by
  rw [blitSprite_eq_fold, (blitCells_spec _ (spriteCells_nodup x0 y0 rows h) _).2.2]
  simp only [Bool.false_or, List.any_eq_true, mem_spriteCells, spriteCovers]
  constructor
  · rintro ⟨p, ⟨row, hl, col, hc, rfl⟩, hb⟩
    exact ⟨screenX x0 col, screenY y0 row, row, hl, col, hc, rfl, rfl, hb⟩
  · rintro ⟨x, y, row, hl, col, hc, hx, hy, hb⟩
    exact ⟨_, ⟨row, hl, col, hc, rfl⟩, hb⟩

/-- The sprite of an instruction has `N` rows, at most 15. -/
@[simp] theorem State.spriteRows_length (s : State) (n : Nibble) : (s.spriteRows n).length = n.toNat := by
  simp [State.spriteRows]

theorem State.spriteRows_short (s : State) (n : Nibble) : (s.spriteRows n).length ≤ 32 := by
  have := n.isLt
  simp only [State.spriteRows_length]
  omega

theorem State.spriteRows_get (s : State) (n : Nibble) (row : Nat) (h : row < (s.spriteRows n).length) :
    (s.spriteRows n)[row] = s.byteAt (s.indexed row) := by
  simp [State.spriteRows]

end Sys2Proof.Machine
end

