-- ==== Sys2Proof/Laws/Decode.lean ====
section
/-! SUPPORT. An encoded word and its fields as numbers: the fields of an encoded word are the fields it was encoded from, by
format class, and a word is its fields (spec/30_encoding.md R71 to R73). -/

namespace Sys2Proof

theorem toNat_append_eq {n m : Nat} (x : BitVec n) (y : BitVec m) :
    (x ++ y).toNat = x.toNat * 2 ^ m + y.toNat := by
  rw [BitVec.toNat_append, ← Nat.shiftLeft_add_eq_or_of_lt y.isLt, Nat.shiftLeft_eq]

theorem toNat_encodeA (set : Nibble) (nnn : Addr12) :
    (encodeA set nnn).toNat = set.toNat * 4096 + nnn.toNat :=
  toNat_append_eq set nnn

theorem toNat_encodeXI (set x : Nibble) (nn : Byte) :
    (encodeXI set x nn).toNat = set.toNat * 4096 + x.toNat * 256 + nn.toNat := by
  have h := toNat_append_eq (set ++ x) nn
  rw [toNat_append_eq set x] at h
  have e : (encodeXI set x nn).toNat = (set ++ x ++ nn).toNat := rfl
  omega

theorem toNat_encodeXYN (set x y n : Nibble) :
    (encodeXYN set x y n).toNat = set.toNat * 4096 + x.toNat * 256 + y.toNat * 16 + n.toNat := by
  have h := toNat_append_eq (set ++ x ++ y) n
  rw [toNat_append_eq (set ++ x) y, toNat_append_eq set x] at h
  have e : (encodeXYN set x y n).toNat = (set ++ x ++ y ++ n).toNat := rfl
  omega

theorem toNat_wordOfBytes (hi lo : Byte) : (wordOfBytes hi lo).toNat = hi.toNat * 256 + lo.toNat :=
  toNat_append_eq hi lo

/-- A field is a quotient and a remainder of the word (spec/30_encoding.md R71). -/
theorem toNat_field (w : Word) (lo len : Nat) : (w.extractLsb' lo len).toNat = w.toNat / 2 ^ lo % 2 ^ len := by
  rw [BitVec.extractLsb'_toNat, Nat.shiftRight_eq_div_pow]

theorem toNat_setField (w : Word) : (setField w).toNat = w.toNat / 4096 % 16 := toNat_field w 12 4
theorem toNat_xField (w : Word) : (xField w).toNat = w.toNat / 256 % 16 := toNat_field w 8 4
theorem toNat_yField (w : Word) : (yField w).toNat = w.toNat / 16 % 16 := toNat_field w 4 4
theorem toNat_nField (w : Word) : (nField w).toNat = w.toNat % 16 := by
  rw [← Nat.div_one w.toNat]
  exact toNat_field w 0 4
theorem toNat_nnField (w : Word) : (nnField w).toNat = w.toNat % 256 := by
  rw [← Nat.div_one w.toNat]
  exact toNat_field w 0 8
theorem toNat_nnnField (w : Word) : (nnnField w).toNat = w.toNat % 4096 := by
  rw [← Nat.div_one w.toNat]
  exact toNat_field w 0 12
theorem toNat_highByte (w : Word) : (highByte w).toNat = w.toNat / 256 % 256 := toNat_field w 8 8
theorem toNat_lowByte (w : Word) : (lowByte w).toNat = w.toNat % 256 := by
  rw [← Nat.div_one w.toNat]
  exact toNat_field w 0 8

@[simp] theorem setField_encodeA (set : Nibble) (nnn : Addr12) : setField (encodeA set nnn) = set := by
  apply BitVec.eq_of_toNat_eq
  rw [toNat_setField, toNat_encodeA]
  omega

@[simp] theorem nnnField_encodeA (set : Nibble) (nnn : Addr12) : nnnField (encodeA set nnn) = nnn := by
  apply BitVec.eq_of_toNat_eq
  rw [toNat_nnnField, toNat_encodeA]
  omega

@[simp] theorem setField_encodeXI (set x : Nibble) (nn : Byte) : setField (encodeXI set x nn) = set := by
  apply BitVec.eq_of_toNat_eq
  rw [toNat_setField, toNat_encodeXI]
  omega

@[simp] theorem xField_encodeXI (set x : Nibble) (nn : Byte) : xField (encodeXI set x nn) = x := by
  apply BitVec.eq_of_toNat_eq
  rw [toNat_xField, toNat_encodeXI]
  omega

@[simp] theorem nnField_encodeXI (set x : Nibble) (nn : Byte) : nnField (encodeXI set x nn) = nn := by
  apply BitVec.eq_of_toNat_eq
  rw [toNat_nnField, toNat_encodeXI]
  omega

@[simp] theorem setField_encodeXYN (set x y n : Nibble) : setField (encodeXYN set x y n) = set := by
  apply BitVec.eq_of_toNat_eq
  rw [toNat_setField, toNat_encodeXYN]
  omega

@[simp] theorem xField_encodeXYN (set x y n : Nibble) : xField (encodeXYN set x y n) = x := by
  apply BitVec.eq_of_toNat_eq
  rw [toNat_xField, toNat_encodeXYN]
  omega

@[simp] theorem yField_encodeXYN (set x y n : Nibble) : yField (encodeXYN set x y n) = y := by
  apply BitVec.eq_of_toNat_eq
  rw [toNat_yField, toNat_encodeXYN]
  omega

@[simp] theorem nField_encodeXYN (set x y n : Nibble) : nField (encodeXYN set x y n) = n := by
  apply BitVec.eq_of_toNat_eq
  rw [toNat_nField, toNat_encodeXYN]
  omega

/-- The two bytes of a word make the word again, high byte first. -/
@[simp] theorem wordOfBytes_bytes (w : Word) : wordOfBytes (highByte w) (lowByte w) = w := by
  apply BitVec.eq_of_toNat_eq
  rw [toNat_wordOfBytes, toNat_highByte, toNat_lowByte]
  omega

/-- A word from its fields, by format class. -/
theorem encodeA_fields (w : Word) : encodeA (setField w) (nnnField w) = w := by
  apply BitVec.eq_of_toNat_eq
  rw [toNat_encodeA, toNat_setField, toNat_nnnField]
  omega

theorem encodeXI_fields (w : Word) : encodeXI (setField w) (xField w) (nnField w) = w := by
  apply BitVec.eq_of_toNat_eq
  rw [toNat_encodeXI, toNat_setField, toNat_xField, toNat_nnField]
  omega

theorem encodeXYN_fields (w : Word) : encodeXYN (setField w) (xField w) (yField w) (nField w) = w := by
  apply BitVec.eq_of_toNat_eq
  rw [toNat_encodeXYN, toNat_setField, toNat_xField, toNat_yField, toNat_nField]
  omega

end Sys2Proof
end

