-- ==== Sys2Proof/Laws/Exec.lean ====
section
/-! SUPPORT. What an instruction and a step can do, said once: the inversion lemmas every invariant is derived from. -/

namespace Sys2Proof.Machine

/-- What no instruction can do to the parts of the state that carry its form: clocks, latch, call in progress, parameters and the
host's moves stay, events are only appended, the stack keeps its length and `SP` its bound, memory its canonical form. -/
theorem exec_keeps {i : Instr} {s t : State} (h : exec i s = .next t) :
    t.accI = s.accI ∧ t.accT = s.accT ∧ t.latch = s.latch ∧ t.update = s.update ∧ t.cfg = s.cfg ∧ t.script = s.script ∧
    s.events <+: t.events ∧ t.stack.length = s.stack.length ∧ (s.sp ≤ s.cfg.stackDepth → t.sp ≤ s.cfg.stackDepth) ∧
    (Memory.wf s.cfg s.mem = true → Memory.wf s.cfg t.mem = true) := by
  cases i
  case ret =>
    simp only [exec, execRet, State.pop_eq, State.raise_eq] at h
    by_cases h0 : s.sp = 0 <;> simp [h0] at h <;> subst h <;> simp
    omega
  case call nnn =>
    simp only [exec, execCall, State.push_eq, State.raise_eq] at h
    by_cases h0 : s.sp = s.cfg.stackDepth <;> simp [h0] at h <;> subst h <;> simp
    omega
  case drw x y n =>
    simp only [exec, execDrw, State.raise_eq] at h
    cases hr : s.indexedOutOfRange n.toNat <;> simp only [hr, Host.Outcome.next.injEq] at h <;> subst h <;> simp
    split <;> simp
  case bcd x =>
    simp only [exec, execBcd, State.raise_eq] at h
    cases hr : s.indexedOutOfRange 3 <;> simp only [hr, Host.Outcome.next.injEq] at h <;> subst h <;> simp
    intro hw
    have := (outOfRange_eq_none_iff _ _).1 hr 2 (by omega)
    exact Memory.wf_writeList hw _ _ (by simp [State.indexed]; omega)
  case ldRegs x =>
    simp only [exec, execLdRegs, State.raise_eq] at h
    cases hr : s.indexedOutOfRange (x.toNat + 1) <;> simp only [hr, Host.Outcome.next.injEq] at h <;> subst h <;> simp
  case ldVxK x =>
    simp only [exec, execLdVxK] at h
    cases hr : s.mostRecentKey <;> simp only [hr, Host.Outcome.next.injEq] at h <;> subst h <;> simp
  all_goals
    simp only [exec, execCls, execJp, execSeImm, execSneImm, execSneReg, execLdImm, execAddImm, execLdI, execRnd, rndWith,
      execLdReg, execOrReg, execAndReg, execXorReg, execAddReg, execSubReg, execShrReg, execSubnReg, execSkp, execSknp,
      execLdVxDt, execLdDtVx, execSnd, execAddI, execLdF, Host.Outcome.next.injEq] at h
    subst h
    simp [State.setRegAndFlag]
  split <;> simp

/-- An instruction either leaves the fault latch alone or latches a record on the state before the step, and which instruction
can latch which cause (spec/60_exceptions.md R206, R212). -/
theorem exec_fault {i : Instr} {s t : State} (h : exec i s = .next t) :
    (t.fault = s.fault) ∨ (∃ c info, t = s.setFault (some (s.faultRecord i.encode c info)) ∧
      ((i = .ret ∧ c = .stackUnderflow) ∨ ((∃ nnn, i = .call nnn) ∧ c = .stackOverflow) ∨
        (((∃ x y n, i = .drw x y n) ∨ (∃ x, i = .bcd x) ∨ ∃ x, i = .ldRegs x) ∧ c = .addressOutOfRange))) := by
  cases i
  case ret =>
    simp only [exec, execRet, State.pop_eq, State.raise_eq] at h
    by_cases h0 : s.sp = 0 <;> simp [h0] at h <;> subst h
    · right; exact ⟨_, _, rfl, by simp⟩
    · left; simp
  case call nnn =>
    simp only [exec, execCall, State.push_eq, State.raise_eq] at h
    by_cases h0 : s.sp = s.cfg.stackDepth <;> simp [h0] at h <;> subst h
    · right; exact ⟨_, _, rfl, by simp⟩
    · left; simp
  case drw x y n =>
    simp only [exec, execDrw, State.raise_eq] at h
    cases hr : s.indexedOutOfRange n.toNat <;> simp only [hr, Host.Outcome.next.injEq] at h <;> subst h
    · left; simp
    · right; exact ⟨_, _, rfl, by simp⟩
  case bcd x =>
    simp only [exec, execBcd, State.raise_eq] at h
    cases hr : s.indexedOutOfRange 3 <;> simp only [hr, Host.Outcome.next.injEq] at h <;> subst h
    · left; simp
    · right; exact ⟨_, _, rfl, by simp⟩
  case ldRegs x =>
    simp only [exec, execLdRegs, State.raise_eq] at h
    cases hr : s.indexedOutOfRange (x.toNat + 1) <;> simp only [hr, Host.Outcome.next.injEq] at h <;> subst h
    · left; simp
    · right; exact ⟨_, _, rfl, by simp⟩
  case ldVxK x =>
    simp only [exec, execLdVxK] at h
    cases hr : s.mostRecentKey <;> simp only [hr, Host.Outcome.next.injEq] at h <;> subst h <;> simp
  all_goals
    left
    simp only [exec, execCls, execJp, execSeImm, execSneImm, execSneReg, execLdImm, execAddImm, execLdI, execRnd, rndWith,
      execLdReg, execOrReg, execAndReg, execXorReg, execAddReg, execSubReg, execShrReg, execSubnReg, execSkp, execSknp,
      execLdVxDt, execLdDtVx, execSnd, execAddI, execLdF, Host.Outcome.next.injEq] at h
    subst h
    simp [State.setRegAndFlag]

/-- `ExecuteOne` is inert on a faulted core, latches a record, or is `exec` of the decoded instruction
(spec/40_execute_one.md R100). -/
theorem executeOne_cases {s t : State} (h : executeOne s = .next t) :
    (s.fault ≠ none ∧ t = s) ∨
      (s.fault = none ∧ ∃ w k info, t = s.setFault (some (s.faultRecord w k info))) ∨
      (s.fault = none ∧ s.pc.toNat ≤ 0xFFE ∧ ∃ i, exec i s = .next t) := by
  simp only [executeOne] at h
  split at h
  · rename_i f hf
    simp only [Host.Outcome.next.injEq] at h
    exact .inl ⟨by simp [hf], h.symm⟩
  · rename_i hf
    split at h
    · rw [State.raise_eq, Host.Outcome.next.injEq] at h
      exact .inr (.inl ⟨hf, _, _, _, h.symm⟩)
    · rename_i w hw
      split at h
      · rw [State.raise_eq, Host.Outcome.next.injEq] at h
        exact .inr (.inl ⟨hf, _, _, _, h.symm⟩)
      · rw [State.fetch_eq] at hw
        split at hw
        · rename_i hp
          exact .inr (.inr ⟨hf, hp, _, h⟩)
        · cases hw

/-- `thenNext` answers a next state exactly when its first part does. -/
theorem thenNext_cases {r : Result} {f : State → State} {t : State} (h : thenNext r f = .next t) :
    ∃ u, r = .next u ∧ t = f u := by
  cases r with
  | next u => exact ⟨u, rfl, (Host.Outcome.next.inj h).symm⟩
  | fault e => cases h
  | refused e => cases h

/-- One action of an `Update`: a budget tick, the change to the timer loop, a timer tick, or the return
(spec/47_host_operations.md R181). -/
theorem updateAction_cases {c : UpdateCall} {s t : State} (h : updateAction c s = .next t) :
    (c.phase = .instructions ∧ interval c.ips ≤ s.accI ∧
        ∃ u, executeOne s = .next u ∧ t = u.afterTick (interval c.ips)) ∨
      (c.phase = .instructions ∧ s.accI < interval c.ips ∧
        t = (s.setAccT (s.accT + c.elapsed)).setUpdate (some { c with phase := .timers })) ∨
      (c.phase = .timers ∧ timerInterval ≤ s.accT ∧ t = s.tick) ∨
      (c.phase = .timers ∧ s.accT < timerInterval ∧ t = s.setUpdate none) := by
  unfold updateAction at h
  split at h
  · rename_i hp
    split at h
    · rename_i hd
      exact .inl ⟨hp, hd, thenNext_cases h⟩
    · rename_i hd
      exact .inr (.inl ⟨hp, not_le.1 hd, (Host.Outcome.next.inj h).symm⟩)
  · rename_i hp
    split at h
    · rename_i hd
      exact .inr (.inr (.inl ⟨hp, hd, (Host.Outcome.next.inj h).symm⟩))
    · rename_i hd
      exact .inr (.inr (.inr ⟨hp, not_le.1 hd, (Host.Outcome.next.inj h).symm⟩))

/-- `LoadRom` that answers: the free state for no bytes, the loaded program otherwise (spec/70_reset_and_hazards.md R232,
R233). -/
theorem State.loadRom_cases {s t : State} {bytes : List Byte} (h : s.loadRom bytes = .next t) :
    (bytes = [] ∧ t = s.invalidRom) ∨ (bytes ≠ [] ∧ bytes.length ≤ romMax ∧ t = s.loadProgram bytes) := by
  unfold State.loadRom at h
  split_ifs at h with h1 h2
  · exact .inl ⟨h1, (Host.Outcome.next.inj h).symm⟩
  · exact .inr ⟨h1, h2, (Host.Outcome.next.inj h).symm⟩

/-- A host operation that answers although it may not overlap an `Update` found none in progress. -/
theorem State.unlessUpdating_cases {s t : State} {r : Result} (h : s.unlessUpdating r = .next t) :
    s.update = none ∧ r = .next t := by
  unfold State.unlessUpdating at h
  split at h
  · cases h
  · exact ⟨‹_›, h⟩

/-- Every way a move of the host can answer a next state. -/
theorem hostMove_cases {m : HostMove} {s t : State} (h : hostMove m s = .next t) :
    (m = .reset ∧ s.update = none ∧ t = s.resetOp) ∨
      (∃ bytes, m = .loadRom bytes ∧ s.update = none ∧ s.loadRom bytes = .next t) ∨
      (∃ e ips, m = .update e ips ∧ s.update = none ∧ 0 ≤ e ∧ t = s.beginUpdate e ips) ∨
      (m = .executeOne ∧ s.update = none ∧ executeOne s = .next t) ∨
      (∃ k, m = .setKeyDown k ∧ t = s.keyDown k) ∨ (∃ k, m = .setKeyUp k ∧ t = s.keyUp k) ∨
      (m = .wait ∧ s.update = none ∧ t = s) ∨
      (m = .wait ∧ ∃ c, s.update = some c ∧ updateAction c s = .next t) := by
  cases m with
  | reset =>
    obtain ⟨hu, hr⟩ := State.unlessUpdating_cases h
    simp_all
  | loadRom bytes =>
    obtain ⟨hu, hr⟩ := State.unlessUpdating_cases h
    simp_all
  | update e ips =>
    obtain ⟨hu, hr⟩ := State.unlessUpdating_cases h
    split_ifs at hr with he
    simp_all
  | executeOne =>
    obtain ⟨hu, hr⟩ := State.unlessUpdating_cases h
    simp_all
  | setKeyDown k => simp_all [hostMove]
  | setKeyUp k => simp_all [hostMove]
  | wait =>
    unfold hostMove at h
    cases hu : s.update <;> simp_all

/-- Every way a step can answer a next state: the host's next move, one action of the `Update` in progress, or one
`ExecuteOne`. -/
theorem step_cases {s t : State} (h : step s = .next t) :
    (∃ m rest, s.script = m :: rest ∧ hostMove m (s.setScript rest) = .next t) ∨
      (s.script = [] ∧ ∃ c, s.update = some c ∧ updateAction c s = .next t) ∨
      (s.script = [] ∧ s.update = none ∧ executeOne s = .next t) := by
  unfold step transition at h
  split at h
  · rename_i m rest hm
    exact .inl ⟨m, rest, hm, h⟩
  · rename_i hm
    split at h
    · rename_i c hc
      exact .inr (.inl ⟨hm, c, hc, h⟩)
    · rename_i hu
      exact .inr (.inr ⟨hm, hu, h⟩)

/-- A record that `ExecuteOne` latches whatever the host's coming moves is latched by every step that runs it. -/
theorem State.stepLatches_of_executeOne {s : State} {f : FaultRecord}
    (h : ∀ ms, executeOne (s.setScript ms) = .next ((s.setScript ms).setFault (some f))) : s.StepLatches f := by
  have h0 : executeOne s = .next (s.setFault (some f)) := h s.script
  refine ⟨h0, fun hu => ⟨fun hs => ?_, fun rest hs => ?_⟩, fun c hu hc hd => ⟨fun hs => ?_, fun rest hs => ?_⟩⟩
  · simp only [step, transition, hs, hu, h0]
  · simp only [step, transition, hs, hostMove, State.unlessUpdating, State.setScript_update, hu, h rest]
  · simp only [step, transition, hs, hu, updateAction, hc, hd, if_true, h0, thenNext, State.afterTick,
      State.setFault_fault]
  · simp only [step, transition, hs, hostMove, State.setScript_update, hu, updateAction, hc, State.setScript_accI, hd,
      if_true, h rest, thenNext, State.afterTick, State.setFault_fault]

/-! ## Free values and host operations -/

/-- A free amount of time is not negative. -/
theorem Config.freeSeconds_nonneg (k : Nat) : 0 ≤ Config.freeSeconds k := by
  unfold Config.freeSeconds
  rw [Rat.mkRat_eq_div]
  positivity

/-- A list made repeat-free has no repeats. -/
theorem distinctKeys_nodup (l : List Nibble) : (distinctKeys l).Nodup := by
  induction l with
  | nil => exact List.nodup_nil
  | cons k ks ih =>
    rw [distinctKeys, List.nodup_cons]
    exact ⟨by simp, ih.filter _⟩

/-- Memory of free bytes is in canonical form. -/
theorem freeMemory_wf (c : Config) (k : Nat) : Memory.wf c (freeMemory c k) = true := by
  have hl : ((List.range 4096).map (Config.freeByte k)).length = 4096 := by rw [List.length_map, List.length_range]
  unfold freeMemory
  generalize (List.range 4096).map (Config.freeByte k) = l at hl ⊢
  exact Memory.wf_writeList Memory.wf_nil 0 l (by omega)

/-- The state `InvalidRom` leaves has the form every state has: its free values keep their types' bounds. -/
theorem State.invalidRom_form (s : State) :
    Memory.wf s.invalidRom.cfg s.invalidRom.mem = true ∧ s.invalidRom.stack.length = s.cfg.stackDepth ∧
      s.invalidRom.sp ≤ s.cfg.stackDepth ∧ s.invalidRom.latch.Nodup ∧ 0 ≤ s.invalidRom.accI ∧ 0 ≤ s.invalidRom.accT := by
  refine ⟨?_, by simp [State.invalidRom], Nat.lt_succ_iff.1 (Nat.mod_lt _ (Nat.succ_pos _)), distinctKeys_nodup _,
    Config.freeSeconds_nonneg _, Config.freeSeconds_nonneg _⟩
  simp only [State.invalidRom]
  exact freeMemory_wf _ _

/-- What `Reset` leaves where the state is read through an accessor (spec/70_reset_and_hazards.md R230). -/
theorem State.resetOp_reads (s : State) :
    (∀ r, s.resetOp.reg r = 0) ∧ (∀ px py, s.resetOp.pixel px py = false) ∧
      ∀ a, s.resetOp.byteAt a = Memory.background s.cfg a := by
  refine ⟨fun r => ?_, fun px py => ?_, fun a => rfl⟩
  · simp [State.resetOp, State.resetWith, State.reg]
  · simp [State.resetOp, State.resetWith, State.pixel, Grid.get]

/-! ## The scheduler -/

/-- The interval of a call is positive. -/
theorem interval_pos (n : Nat) : 0 < interval n := by
  unfold interval
  have : (0:Rat) < ((max 1 n : Nat) : Rat) := by exact_mod_cast (by omega : 0 < max 1 n)
  positivity

/-- How often a loop runs, from the bounds on what is due. -/
theorem dueCount_eq {a d : Rat} {n : Nat} (hd : 0 < d) (h1 : (n:Rat) * d ≤ a) (h2 : a < ((n:Rat)+1) * d) :
    dueCount a d = n := by
  unfold dueCount
  have : (a / d).floor = (n : Int) := by
    have : ⌊a / d⌋ = (n:Int) := by
      rw [Int.floor_eq_iff]
      constructor
      · rw [le_div_iff₀ hd]; exact_mod_cast h1
      · rw [div_lt_iff₀ hd]; exact_mod_cast h2
    exact this
  rw [this]; rfl

/-- One timer tick: `Delay` toward 0, 1/60 second consumed, nothing else. -/
theorem State.tick_eq (s : State) :
    s.tick = { s with delay := BitVec.ofNat 8 (s.delay.toNat - 1), accT := s.accT - 1 / 60 } := by
  unfold State.tick
  split
  · rename_i h
    simp only [State.setAccT, h]
    rfl
  · rename_i h
    have hd : s.delay.toNat ≠ 0 := fun h' => h (BitVec.eq_of_toNat_eq h')
    have e : s.delay - 1 = BitVec.ofNat 8 (s.delay.toNat - 1) := by
      apply BitVec.eq_of_toNat_eq
      have := s.delay.isLt
      simp
      omega
    rw [e]
    rfl

theorem State.skipIf_setUpdate (s : State) (c : Option UpdateCall) (b : Bool) :
    (s.setUpdate c).skipIf b = (s.skipIf b).setUpdate c := by
  cases b <;> rfl

theorem State.emitIf_setUpdate (s : State) (c : Option UpdateCall) (b : Bool) (e : Event) :
    (s.setUpdate c).emitIf b e = (s.emitIf b e).setUpdate c := by
  cases b <;> rfl

/-- No instruction sees the `Update` in progress. -/
theorem exec_setUpdate (i : Instr) (s : State) (c : Option UpdateCall) :
    exec i (s.setUpdate c) = thenNext (exec i s) (fun t => t.setUpdate c) := by
  cases i
  case ret =>
    simp only [exec, execRet, State.pop_eq]
    by_cases h1 : s.sp = 0 <;> simp [h1, thenNext] <;> rfl
  case call =>
    simp only [exec, execCall, State.push_eq]
    by_cases h1 : s.sp = s.cfg.stackDepth <;> simp [h1, thenNext] <;> rfl
  case drw x y n =>
    simp only [exec, execDrw, show (s.setUpdate c).indexedOutOfRange n.toNat = s.indexedOutOfRange n.toNat from rfl]
    cases hq : s.indexedOutOfRange n.toNat
    · exact congrArg Host.Outcome.next (State.emitIf_setUpdate
        ((s.advance.setPixels (s.drawn x y n).grid).setReg vf (flagByte (s.drawn x y n).collision)) c _ _)
    · rfl
  case bcd x =>
    simp only [exec, execBcd, show (s.setUpdate c).indexedOutOfRange 3 = s.indexedOutOfRange 3 from rfl]
    cases hq : s.indexedOutOfRange 3 <;> rfl
  case ldRegs x =>
    simp only [exec, execLdRegs, show (s.setUpdate c).indexedOutOfRange (x.toNat+1) = s.indexedOutOfRange (x.toNat+1) from rfl]
    cases hq : s.indexedOutOfRange (x.toNat+1) <;> rfl
  case cls => exact congrArg Host.Outcome.next (State.emitIf_setUpdate (s.advance.setPixels Grid.blank) c _ _)
  case seImm x nn => exact congrArg Host.Outcome.next (State.skipIf_setUpdate s.advance c _)
  case sneImm x nn => exact congrArg Host.Outcome.next (State.skipIf_setUpdate s.advance c _)
  case sneReg x y => exact congrArg Host.Outcome.next (State.skipIf_setUpdate s.advance c _)
  case skp x => exact congrArg Host.Outcome.next (State.skipIf_setUpdate s.advance c _)
  case sknp x => exact congrArg Host.Outcome.next (State.skipIf_setUpdate s.advance c _)
  case ldVxK x =>
    simp only [exec, execLdVxK, show (s.setUpdate c).mostRecentKey = s.mostRecentKey from rfl]
    cases s.mostRecentKey <;> rfl
  all_goals rfl

/-- Nor does `ExecuteOne`. -/
theorem executeOne_setUpdate (s : State) (c : Option UpdateCall) :
    executeOne (s.setUpdate c) = thenNext (executeOne s) (fun t => t.setUpdate c) := by
  simp only [executeOne, State.setUpdate_fault, show (s.setUpdate c).fetch = s.fetch from rfl]
  cases s.fault with
  | some f => rfl
  | none =>
    cases hf : s.fetch with
    | none => rfl
    | some w =>
      cases hd : decodeWord w with
      | error e => simp only [hd]; rfl
      | ok i => simp only [hd]; exact exec_setUpdate i s c

end Sys2Proof.Machine
end

