-- ==== Sys2Proof/Laws/PerInstr.lean ====
section
/-! SUPPORT. Statements about every instruction as syntax, one lemma per constructor. Family `Row`: an instruction's encoding
has exactly the fixed bits of its row of the opcode map (spec/30_encoding.md R74): under the row's mask it is the row's match,
and the row is one of the thirty. -/

namespace Sys2Proof.Laws.Row

def Statement (i : Instr) : Prop :=
  i.encode &&& i.rowMask = i.rowPattern ∧ (i.rowMask, i.rowPattern) ∈ opcodeRows

/-! A mask acts on each field of a format class by itself. -/

theorem encodeA_and (set m : Nibble) (nnn k : Addr12) :
    encodeA set nnn &&& encodeA m k = encodeA (set &&& m) (nnn &&& k) :=
  BitVec.and_append

theorem encodeXI_and (set x m p : Nibble) (nn q : Byte) :
    encodeXI set x nn &&& encodeXI m p q = encodeXI (set &&& m) (x &&& p) (nn &&& q) := by
  have h1 : (set ++ x ++ nn) &&& (m ++ p ++ q) = ((set ++ x) &&& (m ++ p)) ++ (nn &&& q) := BitVec.and_append
  have h2 : (set ++ x) &&& (m ++ p) = (set &&& m) ++ (x &&& p) := BitVec.and_append
  rw [h2] at h1
  exact h1

theorem encodeXYN_and (set x y n m p q r : Nibble) :
    encodeXYN set x y n &&& encodeXYN m p q r = encodeXYN (set &&& m) (x &&& p) (y &&& q) (n &&& r) := by
  have h1 : (set ++ x ++ y ++ n) &&& (m ++ p ++ q ++ r) = ((set ++ x ++ y) &&& (m ++ p ++ q)) ++ (n &&& r) :=
    BitVec.and_append
  have h2 : (set ++ x ++ y) &&& (m ++ p ++ q) = ((set ++ x) &&& (m ++ p)) ++ (y &&& q) := BitVec.and_append
  have h3 : (set ++ x) &&& (m ++ p) = (set &&& m) ++ (x &&& p) := BitVec.and_append
  rw [h3] at h2
  rw [h2] at h1
  exact h1

theorem nibble_and_ones (n : Nibble) : n &&& 0xF = n :=
  BitVec.and_allOnes

theorem byte_and_ones (b : Byte) : b &&& 0xFF = b :=
  BitVec.and_allOnes

theorem and_zeros {n : Nat} (b : BitVec n) : b &&& 0 = 0 :=
  BitVec.and_zero

/-- Rows of class `A`. -/
theorem rowA (set : Nibble) (nnn : Addr12) : encodeA set nnn &&& 0xF000 = encodeA set 0 := by
  have h := encodeA_and set 0xF nnn 0
  rw [nibble_and_ones, and_zeros] at h
  exact h

/-- Rows of class `XI`. -/
theorem rowXI (set x : Nibble) (nn : Byte) : encodeXI set x nn &&& 0xF000 = encodeXI set 0 0 := by
  have h := encodeXI_and set x 0xF 0 nn 0
  rw [nibble_and_ones, and_zeros, and_zeros] at h
  exact h

/-- Rows of class `XM`. -/
theorem rowXM (set x : Nibble) (nn : Byte) : encodeXI set x nn &&& 0xF0FF = encodeXI set 0 nn := by
  have h := encodeXI_and set x 0xF 0 nn 0xFF
  rw [nibble_and_ones, and_zeros, byte_and_ones] at h
  exact h

/-- Rows of class `XY`. -/
theorem rowXY (set x y n : Nibble) : encodeXYN set x y n &&& 0xF00F = encodeXYN set 0 0 n := by
  have h := encodeXYN_and set x y n 0xF 0 0 0xF
  rw [nibble_and_ones, and_zeros, and_zeros, nibble_and_ones] at h
  exact h

/-- Rows of class `XYN`. -/
theorem rowXYN (set x y n : Nibble) : encodeXYN set x y n &&& 0xF000 = encodeXYN set 0 0 0 := by
  have h := encodeXYN_and set x y n 0xF 0 0 0
  rw [nibble_and_ones, and_zeros, and_zeros, and_zeros] at h
  exact h

theorem cls : Statement .cls :=
  ⟨by decide, by decide⟩

theorem ret : Statement .ret :=
  ⟨by decide, by decide⟩

theorem jp (nnn : Addr12) : Statement (.jp nnn) :=
  ⟨rowA _ _, by simp only [Instr.rowMask, Instr.rowPattern]; decide⟩

theorem call (nnn : Addr12) : Statement (.call nnn) :=
  ⟨rowA _ _, by simp only [Instr.rowMask, Instr.rowPattern]; decide⟩

theorem seImm (x : Nibble) (nn : Byte) : Statement (.seImm x nn) :=
  ⟨rowXI _ _ _, by simp only [Instr.rowMask, Instr.rowPattern]; decide⟩

theorem sneImm (x : Nibble) (nn : Byte) : Statement (.sneImm x nn) :=
  ⟨rowXI _ _ _, by simp only [Instr.rowMask, Instr.rowPattern]; decide⟩

theorem ldImm (x : Nibble) (nn : Byte) : Statement (.ldImm x nn) :=
  ⟨rowXI _ _ _, by simp only [Instr.rowMask, Instr.rowPattern]; decide⟩

theorem addImm (x : Nibble) (nn : Byte) : Statement (.addImm x nn) :=
  ⟨rowXI _ _ _, by simp only [Instr.rowMask, Instr.rowPattern]; decide⟩

theorem ldReg (x y : Nibble) : Statement (.ldReg x y) :=
  ⟨rowXY _ _ _ _, by simp only [Instr.rowMask, Instr.rowPattern]; decide⟩

theorem orReg (x y : Nibble) : Statement (.orReg x y) :=
  ⟨rowXY _ _ _ _, by simp only [Instr.rowMask, Instr.rowPattern]; decide⟩

theorem andReg (x y : Nibble) : Statement (.andReg x y) :=
  ⟨rowXY _ _ _ _, by simp only [Instr.rowMask, Instr.rowPattern]; decide⟩

theorem xorReg (x y : Nibble) : Statement (.xorReg x y) :=
  ⟨rowXY _ _ _ _, by simp only [Instr.rowMask, Instr.rowPattern]; decide⟩

theorem addReg (x y : Nibble) : Statement (.addReg x y) :=
  ⟨rowXY _ _ _ _, by simp only [Instr.rowMask, Instr.rowPattern]; decide⟩

theorem subReg (x y : Nibble) : Statement (.subReg x y) :=
  ⟨rowXY _ _ _ _, by simp only [Instr.rowMask, Instr.rowPattern]; decide⟩

theorem shrReg (x y : Nibble) : Statement (.shrReg x y) :=
  ⟨rowXY _ _ _ _, by simp only [Instr.rowMask, Instr.rowPattern]; decide⟩

theorem subnReg (x y : Nibble) : Statement (.subnReg x y) :=
  ⟨rowXY _ _ _ _, by simp only [Instr.rowMask, Instr.rowPattern]; decide⟩

theorem sneReg (x y : Nibble) : Statement (.sneReg x y) :=
  ⟨rowXY _ _ _ _, by simp only [Instr.rowMask, Instr.rowPattern]; decide⟩

theorem ldI (nnn : Addr12) : Statement (.ldI nnn) :=
  ⟨rowA _ _, by simp only [Instr.rowMask, Instr.rowPattern]; decide⟩

theorem rnd (x : Nibble) (nn : Byte) : Statement (.rnd x nn) :=
  ⟨rowXI _ _ _, by simp only [Instr.rowMask, Instr.rowPattern]; decide⟩

theorem drw (x y n : Nibble) : Statement (.drw x y n) :=
  ⟨rowXYN _ _ _ _, by simp only [Instr.rowMask, Instr.rowPattern]; decide⟩

theorem skp (x : Nibble) : Statement (.skp x) :=
  ⟨rowXM _ _ _, by simp only [Instr.rowMask, Instr.rowPattern]; decide⟩

theorem sknp (x : Nibble) : Statement (.sknp x) :=
  ⟨rowXM _ _ _, by simp only [Instr.rowMask, Instr.rowPattern]; decide⟩

theorem ldVxDt (x : Nibble) : Statement (.ldVxDt x) :=
  ⟨rowXM _ _ _, by simp only [Instr.rowMask, Instr.rowPattern]; decide⟩

theorem ldVxK (x : Nibble) : Statement (.ldVxK x) :=
  ⟨rowXM _ _ _, by simp only [Instr.rowMask, Instr.rowPattern]; decide⟩

theorem ldDtVx (x : Nibble) : Statement (.ldDtVx x) :=
  ⟨rowXM _ _ _, by simp only [Instr.rowMask, Instr.rowPattern]; decide⟩

theorem snd (x : Nibble) : Statement (.snd x) :=
  ⟨rowXM _ _ _, by simp only [Instr.rowMask, Instr.rowPattern]; decide⟩

theorem addI (x : Nibble) : Statement (.addI x) :=
  ⟨rowXM _ _ _, by simp only [Instr.rowMask, Instr.rowPattern]; decide⟩

theorem ldF (x : Nibble) : Statement (.ldF x) :=
  ⟨rowXM _ _ _, by simp only [Instr.rowMask, Instr.rowPattern]; decide⟩

theorem bcd (x : Nibble) : Statement (.bcd x) :=
  ⟨rowXM _ _ _, by simp only [Instr.rowMask, Instr.rowPattern]; decide⟩

theorem ldRegs (x : Nibble) : Statement (.ldRegs x) :=
  ⟨rowXM _ _ _, by simp only [Instr.rowMask, Instr.rowPattern]; decide⟩

end Sys2Proof.Laws.Row
end

