-- ==== Sys2Proof/Tests/Slice0.lean ====
section
/-! SUPPORT. The model's own tests. Every expected value comes from spec/ (the pattern tables of spec/30_encoding.md, the vectors
T-... of spec/95_test_vectors.md, named at each test) and is about one decoding or one step; the witnesses at the end show a
state and operands that meet the hypotheses of each statement. -/

namespace Sys2Proof.Tests

open Sys2Proof.Machine

/-- The reset state with bytes at 0x200, as `LoadRom` leaves it. -/
def prog (bytes : List Byte) : State :=
  State.reset.storeBytes 0x200 bytes

/-- What `f` sees in the state one step later; none if the step stops. -/
def after {α : Type} (s : State) (f : State → α) : Option α :=
  match step s with
  | .next t => some (f t)
  | _ => none

/-- The cause latched. -/
def cause (s : State) : Option Cause :=
  s.fault.map FaultRecord.cause

/-- A fault record, for states that need one. -/
def someFault : FaultRecord where
  cause := .stackUnderflow
  pc := 0x0202
  word := 0x00EE
  set := 0
  sub := none
  info := 0

/-! ## Decoding: one word per row of spec/30_encoding.md R74, bits written out from its pattern -/

theorem test_decode_cls : decodeWord 0b0000000011100000 = .ok .cls := by decide
theorem test_decode_ret : decodeWord 0b0000000011101110 = .ok .ret := by decide
theorem test_decode_jp : decodeWord 0b0001101000000101 = .ok (.jp 0xA05) := by decide
theorem test_decode_call : decodeWord 0b0010001101000101 = .ok (.call 0x345) := by decide
theorem test_decode_seImm : decodeWord 0b0011011000010010 = .ok (.seImm 0x6 0x12) := by decide
theorem test_decode_sneImm : decodeWord 0b0100101001000001 = .ok (.sneImm 0xA 0x41) := by decide
theorem test_decode_ldImm : decodeWord 0b0110101000111100 = .ok (.ldImm 0xA 0x3C) := by decide
theorem test_decode_addImm : decodeWord 0b0111101000000101 = .ok (.addImm 0xA 0x05) := by decide
theorem test_decode_ldReg : decodeWord 0b1000000100100000 = .ok (.ldReg 0x1 0x2) := by decide
theorem test_decode_orReg : decodeWord 0b1000000100100001 = .ok (.orReg 0x1 0x2) := by decide
theorem test_decode_andReg : decodeWord 0b1000000100100010 = .ok (.andReg 0x1 0x2) := by decide
theorem test_decode_xorReg : decodeWord 0b1000000100100011 = .ok (.xorReg 0x1 0x2) := by decide
theorem test_decode_addReg : decodeWord 0b1000000100100100 = .ok (.addReg 0x1 0x2) := by decide
theorem test_decode_subReg : decodeWord 0b1000000100100101 = .ok (.subReg 0x1 0x2) := by decide
theorem test_decode_shrReg : decodeWord 0b1000000100100110 = .ok (.shrReg 0x1 0x2) := by decide
theorem test_decode_subnReg : decodeWord 0b1000111100000111 = .ok (.subnReg 0xF 0x0) := by decide
theorem test_decode_sneReg : decodeWord 0b1001000100100000 = .ok (.sneReg 0x1 0x2) := by decide
theorem test_decode_ldI : decodeWord 0b1010111111111111 = .ok (.ldI 0xFFF) := by decide
theorem test_decode_rnd : decodeWord 0b1100001100001111 = .ok (.rnd 0x3 0x0F) := by decide
theorem test_decode_drw : decodeWord 0b1101011110100101 = .ok (.drw 0x7 0xA 0x5) := by decide
theorem test_decode_skp : decodeWord 0b1110111110011110 = .ok (.skp 0xF) := by decide
theorem test_decode_sknp : decodeWord 0b1110010110100001 = .ok (.sknp 0x5) := by decide
theorem test_decode_ldVxDt : decodeWord 0b1111000100000111 = .ok (.ldVxDt 0x1) := by decide
theorem test_decode_ldVxK : decodeWord 0b1111001000001010 = .ok (.ldVxK 0x2) := by decide
theorem test_decode_ldDtVx : decodeWord 0b1111000000010101 = .ok (.ldDtVx 0x0) := by decide
theorem test_decode_snd : decodeWord 0b1111010000011000 = .ok (.snd 0x4) := by decide
theorem test_decode_addI : decodeWord 0b1111001000011110 = .ok (.addI 0x2) := by decide
theorem test_decode_ldF : decodeWord 0b1111000100101001 = .ok (.ldF 0x1) := by decide
theorem test_decode_bcd : decodeWord 0b1111001100110011 = .ok (.bcd 0x3) := by decide
theorem test_decode_ldRegs : decodeWord 0b1111001001100101 = .ok (.ldRegs 0x2) := by decide

/-- T-DEC-4 to T-DEC-15: words of every family that select no row, with the sub-selector each reports. -/
theorem test_decode_none :
    decodeWord 0x0000 = .error (.unimplemented 0x0 (some 0x00)) ∧ decodeWord 0x00E1 = .error (.unimplemented 0x0 (some 0xE1)) ∧
      decodeWord 0x01E0 = .error (.unimplemented 0x0 (some 0xE0)) ∧ decodeWord 0x5120 = .error (.unimplemented 0x5 none) ∧
      decodeWord 0x8128 = .error (.unimplemented 0x8 (some 0x08)) ∧ decodeWord 0x9121 = .error (.unimplemented 0x9 (some 0x01)) ∧
      decodeWord 0xB300 = .error (.unimplemented 0xB none) ∧ decodeWord 0xE19F = .error (.unimplemented 0xE (some 0x9F)) ∧
      decodeWord 0xFFFF = .error (.unimplemented 0xF (some 0xFF)) := by decide

/-- T-DEC-1: all six fields of one word. -/
theorem test_fields :
    opCode 0xD7A5 = { set := 0xD, x := 0x7, y := 0xA, n := 0x5, nn := 0xA5, nnn := 0x7A5 } := by decide

/-- An instruction is two bytes; a list too short for one is refused by name. -/
theorem test_decode_truncated : decodeBytes [0x12] = .error .truncated := by decide

/-- Two lines of the spec's own listings (spec/95_test_vectors.md P2 and P3). -/
theorem test_toAsm :
    (Instr.ldRegs 0x2).toAsm = "LD V2, [I]" ∧ (Instr.ldImm 0x3 0xEA).toAsm = "LD V3, 0xEA" := by decide

/-! ## Well-formedness: an ill-formed term for each check (spec/10_state.md R24) -/

theorem test_depth_low : Config.wellFormed { Config.default with stackDepth := 11 } = false := by decide
theorem test_depth_high : Config.wellFormed { Config.default with stackDepth := 17 } = false := by decide
theorem test_depth_ends :
    Config.wellFormed { Config.default with stackDepth := 12 } = true ∧ Config.wellFormed Config.default = true := by decide

/-! ## Control transfer -/

/-- T-FLOW-15, first step. -/
theorem test_jp : after (prog [0x1F, 0xFF]) (fun t => t.pc) = some 0x0FFF := by decide
/-- T-FLOW-3, first step. -/
theorem test_call :
    after (prog [0x23, 0x00]) (fun t => (t.pc, t.sp, t.slot 0)) = some (0x0300, 1, 0x0202) := by decide
/-- T-FLT-2, last step. -/
theorem test_call_overflow :
    after ((prog [0x22, 0x00]).setStack (List.replicate 16 0x0202) 16) (fun t => (cause t, t.pc, t.sp)) =
      some (some .stackOverflow, 0x0200, 16) := by decide
/-- T-FLOW-3, second step. -/
theorem test_ret :
    after ((prog [0x00, 0xEE]).setStack [0x0202] 1) (fun t => (t.pc, t.sp)) = some (0x0202, 0) := by decide
/-- T-FLT-1, second step. -/
theorem test_ret_underflow :
    after (prog [0x00, 0xEE]) (fun t => (cause t, t.pc)) = some (some .stackUnderflow, 0x0200) := by decide
/-- T-FLOW-4. -/
theorem test_seImm_skips : after (prog [0x30, 0x00]) (fun t => t.pc) = some 0x0204 := by decide
/-- T-FLOW-5. -/
theorem test_seImm_falls : after (prog [0x30, 0x01]) (fun t => t.pc) = some 0x0202 := by decide
/-- T-FLOW-6. -/
theorem test_sneImm_falls : after ((prog [0x4A, 0x41]).setReg 0xA 0x41) (fun t => t.pc) = some 0x0202 := by decide
/-- T-FLOW-7. -/
theorem test_sneImm_skips : after ((prog [0x4A, 0x41]).setReg 0xA 0x40) (fun t => t.pc) = some 0x0204 := by decide
/-- T-FLOW-8. -/
theorem test_sneReg_skips :
    after (((prog [0x91, 0x20]).setReg 1 5).setReg 2 7) (fun t => t.pc) = some 0x0204 := by decide
/-- T-FLOW-10. -/
theorem test_sneReg_self : after ((prog [0x93, 0x30]).setReg 3 9) (fun t => t.pc) = some 0x0202 := by decide
/-- T-FLOW-13, second step: an odd `PC` fetches. -/
theorem test_odd_pc :
    after ((prog [0x12, 0x03, 0x00, 0x60, 0x2A, 0x00]).setPc 0x203) (fun t => (t.reg 0, t.pc)) = some (0x2A, 0x0205) := by decide
/-- T-FLOW-14, second step: the fetch at 0xFFE is in range and finds no row. -/
theorem test_last_fetch :
    after ((prog []).setPc 0xFFE) (fun t => (cause t, t.pc)) = some (some .unimplementedOpcode, 0x0FFE) := by decide
/-- T-FLOW-15, second step. -/
theorem test_fetch_fault :
    after ((prog []).setPc 0xFFF) (fun t => (t.fault, t.pc)) =
      some (some { cause := .addressOutOfRange, pc := 0xFFF, word := 0, set := 0, sub := none, info := 0xFFF }, 0xFFF) := by
  decide

/-! ## Immediate loads -/

/-- T-IMM-2. -/
theorem test_ldImm_flag : after (prog [0x6F, 0x7B]) (fun t => t.reg 0xF) = some 0x7B := by decide
/-- T-IMM-3. -/
theorem test_addImm_wraps :
    after ((prog [0x70, 0x01]).setReg 0 0xFF) (fun t => (t.reg 0, t.reg 0xF)) = some (0x00, 0x00) := by decide
/-- T-IMM-5. -/
theorem test_addImm_flag : after ((prog [0x7F, 0x02]).setReg 0xF 0xFF) (fun t => t.reg 0xF) = some 0x01 := by decide
/-- T-IMM-7. -/
theorem test_ldI : after (prog [0xAF, 0xFF]) (fun t => (t.i, t.pc)) = some (0x0FFF, 0x0202) := by decide
/-- T-IMM-9. -/
theorem test_rnd : (rndWith 0xA7 3 0x0F (prog [])).reg 3 = 0x07 := by decide

/-! ## ALU -/

/-- A program of one word with `V1`, `V2` and `VF` set. -/
def alu (hi lo v1 v2 flag : Byte) : State :=
  (((prog [hi, lo]).setReg 1 v1).setReg 2 v2).setReg 0xF flag

/-- `V1` and `VF` a step later. -/
def aluOut (s : State) : Option (Byte × Byte) :=
  after s (fun t => (t.reg 1, t.reg 0xF))

/-- T-ALU-1. -/
theorem test_ldReg : aluOut (alu 0x81 0x20 0x00 0x5A 0x01) = some (0x5A, 0x01) := by decide
/-- T-ALU-2. -/
theorem test_orReg : aluOut (alu 0x81 0x21 0xF0 0x0F 0x01) = some (0xFF, 0x01) := by decide
/-- T-ALU-3. -/
theorem test_andReg : aluOut (alu 0x81 0x22 0xF3 0x3C 0x00) = some (0x30, 0x00) := by decide
/-- T-ALU-4. -/
theorem test_xorReg : aluOut (alu 0x81 0x23 0xFF 0x0F 0x00) = some (0xF0, 0x00) := by decide
/-- T-ALU-6. -/
theorem test_addReg_255 : aluOut (alu 0x81 0x24 0x80 0x7F 0x01) = some (0xFF, 0x00) := by decide
/-- T-ALU-8b: the flag is written last. -/
theorem test_addReg_flag : aluOut (alu 0x8F 0x14 0x02 0x00 0xFF) = some (0x02, 0x01) := by decide
/-- T-ALU-10. -/
theorem test_subReg_equal : aluOut (alu 0x81 0x25 0x33 0x33 0x01) = some (0x00, 0x00) := by decide
/-- T-ALU-11. -/
theorem test_subReg_less : aluOut (alu 0x81 0x25 0x20 0x50 0x00) = some (0xD0, 0x00) := by decide
/-- T-ALU-12. -/
theorem test_shrReg : aluOut (alu 0x81 0x26 0x05 0x08 0x00) = some (0x02, 0x01) := by decide
/-- T-ALU-12b. -/
theorem test_shrReg_vy :
    aluOut { alu 0x81 0x26 0x05 0x08 0x00 with cfg := { Config.default with shrSource := .vy } } = some (0x04, 0x00) := by
  decide
/-- T-ALU-14. -/
theorem test_subnReg : aluOut (alu 0x81 0x27 0x20 0x50 0x00) = some (0x30, 0x01) := by decide
/-- T-ALU-15. -/
theorem test_subnReg_equal : aluOut (alu 0x81 0x27 0x33 0x33 0x01) = some (0x00, 0x00) := by decide

/-! ## Display -/

/-- A screen with only (5, 3) on. -/
def onePixel : Grid :=
  Grid.put Grid.blank 5 3 true

/-- T-DRW-0, from a screen that is not clear. -/
theorem test_cls :
    after ((prog [0x00, 0xE0]).setPixels onePixel) (fun t => (t.pixel 5 3, t.pc, t.events)) =
      some (false, 0x0202, [.refresh]) := by decide +kernel
/-- T-DRW-2, second step: bit 7 at column 63, bits 6 to 0 at columns 0 to 6. -/
theorem test_drw_wraps :
    after ((((prog [0xD0, 0x11, 0xFF]).setI 0x202).setReg 0 63).setReg 1 0)
      (fun t => (t.pixel 62 0, t.pixel 63 0, t.pixel 0 0, t.pixel 6 0, t.pixel 7 0, t.reg 0xF)) =
      some (false, true, true, true, false, 0) := by decide +kernel
/-- T-DRW-1, third step: the second draw turns the pixel off and sets the flag. -/
theorem test_drw_collides :
    after (((((prog [0xD0, 0x11, 0x80]).setPixels onePixel).setI 0x202).setReg 0 5).setReg 1 3)
      (fun t => (t.pixel 5 3, t.reg 0xF, t.events)) = some (false, 1, [.refresh]) := by decide +kernel

/-! ## Keys, timer, sound -/

/-- T-KEY-1. -/
theorem test_skp : after (((prog [0xE5, 0x9E]).setReg 5 0x0A).setLatch [0xA]) (fun t => t.pc) = some 0x0204 := by decide
/-- T-KEY-4. -/
theorem test_skp_byte : after (((prog [0xE5, 0x9E]).setReg 5 0x1A).setLatch [0xA]) (fun t => t.pc) = some 0x0202 := by decide
/-- T-KEY-3. -/
theorem test_sknp : after ((prog [0xE5, 0xA1]).setReg 5 0x0A) (fun t => t.pc) = some 0x0204 := by decide
/-- T-KEY-3b. -/
theorem test_sknp_down : after (((prog [0xE5, 0xA1]).setReg 5 0x0A).setLatch [0xA]) (fun t => t.pc) = some 0x0202 := by decide
/-- T-TMR-1. -/
theorem test_ldVxDt :
    after ((prog [0xF1, 0x07]).setDelay 0x2A) (fun t => (t.reg 1, t.delay)) = some (0x2A, 0x2A) := by decide
/-- T-KEY-5. -/
theorem test_ldVxK_waits : after (prog [0xF2, 0x0A]) (fun t => (t.reg 2, t.pc)) = some (0x00, 0x0200) := by decide
/-- T-KEY-7. -/
theorem test_ldVxK :
    after ((prog [0xF2, 0x0A]).setLatch [7, 3]) (fun t => (t.reg 2, t.pc)) = some (0x03, 0x0202) := by decide
/-- T-TMR-2. -/
theorem test_ldDtVx : after ((prog [0xF0, 0x15]).setReg 0 0x3C) (fun t => t.delay) = some 0x3C := by decide
/-- T-SND-1. -/
theorem test_snd : after ((prog [0xF4, 0x18]).setReg 4 0x1E) (fun t => t.events) = some [.beep 30] := by decide
/-- T-SND-2. -/
theorem test_snd_zero : after (prog [0xF4, 0x18]) (fun t => t.events) = some [.beep 0] := by decide
/-- T-KEY-8: a key pressed again becomes the most recent. -/
theorem test_key_again : (((State.reset.keyDown 7).keyDown 3).keyDown 7).latch = [3, 7] := by decide
/-- T-KEY-10. -/
theorem test_key_up_absent : ((prog []).setLatch [7] |>.keyUp 5).latch = [7] := by decide

/-! ## Index register and memory -/

/-- T-IDX-2, third step. -/
theorem test_addI_past : after (((prog [0xF0, 0x1E]).setI 0x0FFF).setReg 0 0xFF) (fun t => (t.i, t.reg 0xF)) = some (0x10FE, 0) := by
  decide
/-- T-IDX-3, second step. -/
theorem test_addI_wraps : after (((prog [0xF0, 0x1E]).setI 0xFF80).setReg 0 0xFF) (fun t => t.i) = some 0x007F := by decide
/-- T-IDX-6. -/
theorem test_ldF : after ((prog [0xF1, 0x29]).setReg 1 0xFF) (fun t => t.i) = some 0x04FB := by decide
/-- T-IDX-9, third step: the highest legal `I`. -/
theorem test_bcd :
    after (((prog [0xF0, 0x33]).setI 0x0FFD).setReg 0 0xFF)
      (fun t => (t.byteAt 0xFFD, t.byteAt 0xFFE, t.byteAt 0xFFF, t.i)) = some (2, 5, 5, 0x0FFD) := by decide
/-- T-IDX-10, third step. -/
theorem test_bcd_fault :
    after (((prog [0xF0, 0x33]).setI 0x0FFE).setReg 0 0xFF) (fun t => (cause t, t.fault.map FaultRecord.info, t.byteAt 0xFFE)) =
      some (some .addressOutOfRange, some 0x1000, 0) := by decide
/-- T-IDX-11. -/
theorem test_ldRegs :
    after ((((prog [0xF2, 0x65]).storeBytes 0x300 [2, 3, 4, 5]).setI 0x300).setReg 3 0x77)
      (fun t => (t.reg 0, t.reg 1, t.reg 2, t.reg 3, t.i)) = some (2, 3, 4, 0x77, 0x300) := by decide
/-- T-IDX-12: the first font byte (FONT is the default of spec/93_implementation_defined.md G1, PRESUMED there). -/
theorem test_ldRegs_font : after (prog [0xF0, 0x65]) (fun t => (t.reg 0, t.reg 1)) = some (0xF0, 0) := by decide

/-! ## Host operations -/

/-- T-RST-1. -/
theorem test_loadRom :
    after { State.reset with script := [.loadRom [0x12, 0x34, 0x56]] }
      (fun t => (t.byteAt 0x200, t.byteAt 0x202, t.byteAt 0x203, t.byteAt 0, t.pc)) = some (0x12, 0x56, 0, 0xF0, 0x0200) := by
  decide
/-- T-RST-4. -/
theorem test_loadRom_latch :
    after { State.reset with script := [.loadRom [0x12]], latch := [7] } (fun t => t.latch) = some [7] := by decide
/-- T-FLT-5. -/
theorem test_reset_move :
    after { prog [0x12] with script := [.reset], latch := [7], fault := some someFault }
      (fun t => (t.fault, t.byteAt 0x200, t.latch)) = some (none, 0, [7]) := by decide
/-- T-FLT-4: key events reach the latch of a faulted core. -/
theorem test_faulted_key :
    after { State.reset with script := [.setKeyDown 3], fault := some someFault } (fun t => (t.fault, t.latch)) =
      some (some someFault, [3]) := by decide
/-- T-UPD-4: the first action of `Update(1/500, 500)` has an instruction due, since `>=` holds at equality. -/
theorem test_budget_tick :
    after ((prog [0x12, 0x00]).beginUpdate (1 / 500) 500) (fun t => (t.pc, t.accI)) = some (0x0200, 0) := by decide +kernel
/-- T-UPD-1, the counts. -/
theorem test_counts : dueCount (1 / 60) (interval 600) = 10 ∧ dueCount (1 / 60) timerInterval = 1 := by decide +kernel
/-- T-UPD-3: `ips = 0` acts as 1. -/
theorem test_ips_zero : dueCount (5 / 2) (interval 0) = 2 ∧ dueCount (5 / 2) timerInterval = 150 := by decide +kernel
/-- T-UPD-10: a tick at 0 still consumes its time. -/
theorem test_tick_at_zero : (State.reset.setAccT (1 / 60)).tick.delay = 0 ∧ (State.reset.setAccT (1 / 60)).tick.accT = 0 := by
  decide +kernel

/-- The host's question: a word placed for the next fetch is what the next step runs. -/
theorem test_withFetchWord : after (State.reset.withFetchWord 16 0x6A3C) (fun t => (t.reg 0xA, t.pc)) = some (0x3C, 0x0202) := by
  decide
theorem test_decodeTableWord : decodeTableWord 16 0x6A3C = some (.ldImm 0xA 0x3C) := by decide

/-! ## Witnesses: for each statement with hypotheses, a state and operands that meet all of them, at the ends of their ranges -/

/-- `exec` answers a next state of which `P` holds. -/
def gives (r : Result) (P : State → Bool) : Bool :=
  match r with
  | .next t => P t
  | _ => false

/-- DecodeThenEncode, DecoderFollowsOpcodeMap (a word that selects a row). -/
theorem test_witness_decodes :
    decodeWord 0xF00A = .ok (.ldVxK 0x0) ∧ (∃ row ∈ opcodeRows, selectsRow 0xF00A row = true) := by decide

/-- UnimplementedWordsAreRejectedByName: words of every kind of family that select no row. -/
theorem test_witness_no_row :
    ([0x0000, 0x0FFF, 0x5000, 0x5FFF, 0x8008, 0x9001, 0xB000, 0xBFFF, 0xE000, 0xF000, 0xFFFF] : List Word).all (fun w =>
      opcodeRows.all (fun row => selectsRow w row == false)) = true := by decide

/-- A state with the word 0x6A3C at the last address a fetch can read. -/
def atTheEnd : State :=
  (State.reset.storeBytes 0xFFE [0x6A, 0x3C]).setPc 0xFFE

/-- StepExecutesDecodedInstruction, the first and second clause. -/
theorem test_witness_step :
    atTheEnd.pc.toNat ≤ 0xFFE ∧
      decodeBytes [atTheEnd.byteAt atTheEnd.pc.toNat, atTheEnd.byteAt (atTheEnd.pc.toNat + 1)] = .ok (.ldImm 0xA 0x3C, []) ∧
      atTheEnd.fault = none ∧ atTheEnd.script = [] ∧ atTheEnd.update = none ∧
      (atTheEnd.setScript [.executeOne]).script = .executeOne :: [] ∧
      after (atTheEnd.setScript [.executeOne]) (fun t => t.reg 0xA) = some 0x3C := by decide

/-- StepExecutesDecodedInstruction, the third and fourth clause: an `Update` with exactly one instruction due. -/
theorem test_witness_step_update :
    (atTheEnd.beginUpdate (1 / 500) 500).script = [] ∧
      (atTheEnd.beginUpdate (1 / 500) 500).update = some { elapsed := 1 / 500, ips := 500, phase := .instructions } ∧
      interval 500 ≤ (atTheEnd.beginUpdate (1 / 500) 500).accI ∧
      ((atTheEnd.beginUpdate (1 / 500) 500).setScript [.wait]).script = .wait :: [] := by decide +kernel

/-- FetchOutsideMemoryLatchesFault, FaultsByInstruction (fetch): the lowest and the highest `PC`. -/
theorem test_witness_fetch_outside :
    ([0xFFF, 0x1000, 0xFFFF] : List Word).all (fun w =>
      (State.reset.setPc w).fault == none && decide (0xFFE < (State.reset.setPc w).pc.toNat)) = true := by decide

/-- FetchOutsideMemoryLatchesFault, UnimplementedWordLatchesFault, each way a step runs `ExecuteOne`: silently, by the host's move,
and in an `Update` with exactly one instruction due, left alone or waited for. -/
theorem test_witness_latching_steps :
    ([0xFFF, 0x200] : List Word).all (fun a =>
      (State.reset.setPc a).update == none && (State.reset.setPc a).script == [] &&
        ((State.reset.setPc a).setScript [.executeOne]).script == [.executeOne] &&
        ((State.reset.setPc a).beginUpdate (1 / 500) 500).update ==
          some { elapsed := 1 / 500, ips := 500, phase := .instructions } &&
        decide (interval 500 ≤ ((State.reset.setPc a).beginUpdate (1 / 500) 500).accI) &&
        ((State.reset.setPc a).beginUpdate (1 / 500) 500).script == [] &&
        (((State.reset.setPc a).beginUpdate (1 / 500) 500).setScript [.wait]).script == [.wait] &&
        gives (step (((State.reset.setPc a).beginUpdate (1 / 500) 500).setScript [.wait]))
          (fun t => t.fault != none && t.update == none && t.pc == a)) = true := by decide +kernel

/-- UnimplementedWordLatchesFault: the zeroed memory after `Reset`, and the last word of memory. -/
theorem test_witness_unimplemented :
    ([0x200, 0xFFE] : List Word).all (fun a =>
      (State.reset.setPc a).fault == none && decide ((State.reset.setPc a).pc.toNat ≤ 0xFFE) &&
        (State.reset.setPc a).byteAt (State.reset.setPc a).pc.toNat == 0x00 &&
        (State.reset.setPc a).byteAt ((State.reset.setPc a).pc.toNat + 1) == 0x00 &&
        opcodeRows.all (fun row => selectsRow 0x0000 row == false)) = true := by decide

/-- FaultedCoreIsInert: idle, with a key event, and with a call of `Update`. -/
theorem test_witness_faulted :
    ∀ ms ∈ ([[], [.setKeyDown 3], [.update 1 600], [.executeOne]] : List (List HostMove)),
      ((State.reset.setFault (some someFault)).setScript ms).fault ≠ none ∧
        ((State.reset.setFault (some someFault)).setScript ms).update = none ∧
        (after ((State.reset.setFault (some someFault)).setScript ms) (fun t => t.fault) = some (some someFault)) ∧
        ms.head? ≠ some .reset ∧ ms.head? ≠ some (.loadRom []) ∧ ms.head? ≠ some (.loadRom [0x12]) := by
  decide +kernel

/-- FaultDiscardsTheStep, FaultsByInstruction, ProgramCounterAfterInstruction (a fault): every instruction that can fault. -/
theorem test_witness_faults :
    gives (exec .ret State.reset) (fun t => cause t == some .stackUnderflow) ∧
      gives (exec (.call 0x200) (State.reset.setStack (List.replicate 16 0) 16)) (fun t => cause t == some .stackOverflow) ∧
      gives (exec (.drw 0 0 2) (State.reset.setI 0xFFF)) (fun t => cause t == some .addressOutOfRange) ∧
      gives (exec (.bcd 0) (State.reset.setI 0xFFE)) (fun t => cause t == some .addressOutOfRange) ∧
      gives (exec (.ldRegs 0xF) (State.reset.setI 0xFF1)) (fun t => cause t == some .addressOutOfRange) := by
  decide

/-- StepKeepsStateSound: the reset state, and one with a call in progress. -/
theorem test_witness_sound :
    State.reset.Sound ∧ (State.reset.beginUpdate (1 / 60) 600).Sound ∧ (after State.reset (fun t => t.sp) = some 0) := by
  decide +kernel

/-- StepKeepsAddressesInReach: the highest `PC` and the highest return address the invariant admits. -/
theorem test_witness_reach : ((State.reset.setStack [0x1000] 1).setPc 0x1002).InReach := by
  intro _
  refine ⟨by decide, fun j hj => ?_⟩
  obtain rfl : j = 0 := Nat.lt_one_iff.1 hj
  decide

/-- StepKeepsClockBounded: idle, in the instruction loop, and in the timer loop with a backlog of ticks. -/
theorem test_witness_clock :
    State.reset.ClockBounded ∧ (State.reset.beginUpdate 1 600).ClockBounded ∧
      ((State.reset.setAccT 1).setUpdate (some { elapsed := 1, ips := 600, phase := .timers })).ClockBounded :=
  ⟨fun _ => show (0 : Rat) < 1 / 60 by decide +kernel, fun _ => show (0 : Rat) < 1 / 60 by decide +kernel,
    fun _ => show (0 : Rat) < interval 600 by decide +kernel⟩

/-- StepsKeepParametersAndEvents: a step that emits an event. -/
theorem test_witness_event : after (prog [0x00, 0xE0]) (fun t => t.events) = some [.refresh] := by decide +kernel

/-- OnlyBcdStoresToMemory, OnlyKeyInstructionsSeeTheLatch, ProgramCounterAfterInstruction (no fault): CLS. -/
theorem test_witness_cls :
    (∀ x, Instr.cls ≠ .bcd x) ∧ (∀ x, Instr.cls ≠ .skp x ∧ Instr.cls ≠ .sknp x ∧ Instr.cls ≠ .ldVxK x) ∧
      gives (exec .cls State.reset) (fun t => t.fault == none) :=
  ⟨fun _ => nofun, fun _ => ⟨nofun, nofun, nofun⟩, by decide +kernel⟩

/-- FlagRegisterWriters: a carry, a collision, and instructions whose `X` is `0xF`. -/
theorem test_witness_flag :
    gives (exec (.addReg 1 1) (State.reset.setReg 1 0x80)) (fun t => t.reg 0xF != State.reset.reg 0xF) ∧
      gives (exec (.ldImm 0xF 1) State.reset) (fun t => t.reg 0xF != State.reset.reg 0xF) ∧
      gives (exec (.ldReg 0xF 1) (State.reset.setReg 1 0x80)) (fun t => t.reg 0xF != State.reset.reg 0xF) ∧
      gives (exec (.ldRegs 0xF) State.reset) (fun t => t.reg 0xF != State.reset.reg 0xF) := by
  decide

/-- CallResult, ReturnResult, CallThenReturnResumesAfterCall: the last free slot, the full stack, more than full (no run reaches
it), one entry, none. -/
theorem test_witness_stack :
    (State.reset.setStack State.reset.stack 15).sp ≠ State.reset.cfg.stackDepth ∧
      (State.reset.setStack State.reset.stack 15).sp < State.reset.cfg.stackDepth ∧
      State.reset.stack.length = State.reset.cfg.stackDepth ∧
      (State.reset.setStack State.reset.stack 16).sp = State.reset.cfg.stackDepth ∧
      (State.reset.setStack State.reset.stack 17).sp ≠ State.reset.cfg.stackDepth ∧
      (State.reset.setStack State.reset.stack 1).sp ≠ 0 ∧ State.reset.sp = 0 := by decide

/-- SkipsOnRegisters, last clause: a 9XYN that is no SNE. RandomResult, last clause: a byte within the
mask, and the two ends of the mask (T-IMM-10, T-IMM-11). -/
theorem test_witness_bits :
    (0x1 : Nibble) ≠ 0 ∧ ((0x07 : Byte) &&& ~~~0x0F = 0) ∧ ((0x00 : Byte) &&& ~~~0x00 = 0) ∧ ((0xA7 : Byte) &&& ~~~0xFF = 0) := by
  decide

/-- ShiftRightResult: both values of the parameter. -/
theorem test_witness_shr :
    (State.reset.cfg.shrSource = .vx → (0 : Byte) = State.reset.reg 1) ∧
      (State.reset.cfg.shrSource = .vy → (0 : Byte) = State.reset.reg 2) ∧
      ({ Config.default with shrSource := .vy } : Config).shrSource = .vy := by decide

/-- DrawResult, DrawingTwiceRestoresTheScreen: the highest `I` for 15 rows, no rows at any `I`; a cell covered, a lit cell
covered, and no cell covered. -/
theorem test_witness_draw :
    ((0xF : Nibble) = 0 ∨ (State.reset.setI 0xFF1).i.toNat + (0xF : Nibble).toNat ≤ 0x1000) ∧
      ((0 : Nibble) = 0 ∨ (State.reset.setI 0xFFFF).i.toNat + (0 : Nibble).toNat ≤ 0x1000) ∧
      State.reset.SpriteCovers 0 0 1 0 0 ∧ ¬ State.reset.SpriteCovers 0 0 0 0 0 ∧
      (State.reset.setPixels (Grid.put Grid.blank 0 0 true)).pixel 0 0 = true ∧
      (0 : Nibble) ≠ 0xF ∧ (1 : Nibble) ≠ 0xF :=
  ⟨by decide, by decide, ⟨0, 0, by decide, by decide, by decide, by decide, by decide⟩,
    fun ⟨_, _, h, _⟩ => absurd h (Nat.not_lt_zero _), by decide +kernel, by decide, by decide⟩

/-- DrawingTwiceRestoresTheScreen, the flag: the first draw leaves 0 and the sprite covers a cell. -/
theorem test_witness_draw_twice :
    gives (exec (.drw 0 0 1) State.reset) (fun t => t.reg 0xF == 0) ∧ State.reset.SpriteCovers 0 0 1 0 0 :=
  ⟨by decide +kernel, ⟨0, 0, by decide, by decide, by decide, by decide, by decide⟩⟩

/-- DataAccessOutsideMemoryLatchesFault: the lowest `I` of each clause. -/
theorem test_witness_data_outside :
    ((1 : Nibble) ≠ 0 ∧ (State.reset.setI 0x1000).i.toNat + (1 : Nibble).toNat - 1 > 0xFFF) ∧
      (State.reset.setI 0xFFE).i.toNat + 2 > 0xFFF ∧
      (State.reset.setI 0x1000).i.toNat + (0 : Nibble).toNat > 0xFFF ∧
      (State.reset.setI 0xFF1).i.toNat + (0xF : Nibble).toNat > 0xFFF := by decide

/-- KeySkips: the lowest byte that is no key. KeyWaitResult: an empty latch and one with two keys. -/
theorem test_witness_keys :
    ((State.reset.setReg 5 0x10).reg 5).toNat > 0xF ∧ State.reset.latch = [] ∧
      (State.reset.setLatch [7, 3]).latch = [7] ++ [3] := by decide

/-- KeyEventsReachTheLatch: both moves, a latch without repeats, a key that is not down. -/
theorem test_witness_key_events :
    (State.reset.setScript [.setKeyDown 7]).script = .setKeyDown 7 :: [] ∧
      (State.reset.setScript [.setKeyUp 7]).script = .setKeyUp 7 :: [] ∧ State.reset.latch.Nodup ∧
      (7 : Nibble) ∉ State.reset.latch := by decide

/-- DecimalDigitsResult and LoadRegistersResult at the highest `I`, StoredBytesReadBack, NextFetchSeesAStore. -/
theorem test_witness_memory :
    Memory.wf State.reset.cfg State.reset.mem = true ∧ (State.reset.setI 0xFFD).i.toNat + 2 ≤ 0xFFF ∧
      (State.reset.setI 0xFFF).i.toNat + (0 : Nibble).toNat ≤ 0xFFF ∧
      (State.reset.setI 0xFF0).i.toNat + (0xF : Nibble).toNat ≤ 0xFFF ∧
      (State.reset.setI 0x202).i = (State.reset.setI 0x202).pc + 2 ∧ (State.reset.setI 0x202).i.toNat + 2 ≤ 0xFFF := by
  decide

/-- ResetMoveResult, LoadRomMoveResult (the shortest and the longest program), InvalidRomMoveLatchesFault. -/
theorem test_witness_load :
    (State.reset.setScript [.reset]).script = .reset :: [] ∧ (State.reset.setScript [.reset]).update = none ∧
      ([0x12] : List Byte) ≠ [] ∧ ([0x12] : List Byte).length ≤ 3584 ∧
      List.replicate 3584 (0 : Byte) ≠ [] ∧ (List.replicate 3584 (0 : Byte)).length ≤ 3584 ∧
      (State.reset.setScript [.loadRom []]).script = .loadRom [] :: [] :=
  ⟨rfl, rfl, by decide, by decide, fun h => absurd (congrArg List.length h) (by rw [List.length_replicate]; decide),
    (List.length_replicate ..).le, rfl⟩

/-- MovesWithoutMeaningAreRefused: an overlap, the shortest program that is too long, a negative time. -/
theorem test_witness_refused :
    (State.reset.beginUpdate 1 600).update ≠ none ∧ State.reset.update = none ∧
      (List.replicate 3585 (0 : Byte)).length > 3584 ∧ (-1 : Seconds) < 0 :=
  ⟨by decide +kernel, rfl, by rw [List.length_replicate]; decide, by decide +kernel⟩

/-- UpdateCountsInstructions: exactly `n` instructions due (T-UPD-1), and a loop of none that ends without a fault. -/
theorem test_witness_count :
    State.reset.fault = none ∧ ((10 : Nat) : Rat) * interval 600 ≤ State.reset.accI + 1 / 60 ∧
      State.reset.accI + 1 / 60 < (((10 : Nat) : Rat) + 1) * interval 600 ∧
      ((0 : Nat) : Rat) * interval 600 ≤ State.reset.accI + 0 ∧ State.reset.accI + 0 < (((0 : Nat) : Rat) + 1) * interval 600 ∧
      instructionLoop (interval 600) 0 (State.reset.setAccI 0) = .next (State.reset.setAccI 0) :=
  ⟨rfl, by decide +kernel, by decide +kernel, by decide +kernel, by decide +kernel, rfl⟩

/-- UpdateCountsTimerTicks: exactly one tick due, and none. -/
theorem test_witness_ticks :
    ((1 : Nat) : Rat) ≤ (State.reset.accT + 1 / 60) * 60 ∧ (State.reset.accT + 1 / 60) * 60 < ((1 : Nat) : Rat) + 1 ∧
      ((0 : Nat) : Rat) ≤ (State.reset.accT + 0) * 60 ∧ (State.reset.accT + 0) * 60 < ((0 : Nat) : Rat) + 1 := by decide +kernel

/-- OneSecondIsSixtyTicks: the calls of T-UPD-7, whose times sum to 1. -/
theorem test_witness_second :
    0 ≤ State.reset.accT ∧ State.reset.accT < 1 / 60 ∧
      (∀ c ∈ ([(1 / 7, id), (2 / 7, id), (1 / 3, id), (5 / 21, id)] : List (Seconds × (State → State))),
        0 ≤ c.1 ∧ ∀ u, (c.2 u).delay = u.delay ∧ (c.2 u).accT = u.accT) ∧
      (([(1 / 7, id), (2 / 7, id), (1 / 3, id), (5 / 21, id)] : List (Seconds × (State → State))).map Prod.fst).sum = 1 := by
  refine ⟨by decide +kernel, by decide +kernel, fun c hc => ?_, by decide +kernel⟩
  simp only [List.mem_cons, List.not_mem_nil, or_false] at hc
  rcases hc with rfl | rfl | rfl | rfl <;> exact ⟨by decide +kernel, fun _ => ⟨rfl, rfl⟩⟩

/-- StepwiseUpdateIsTheWholeCall, UpdateMoveBeginsTheCall: a call with one instruction and no tick due (T-UPD-4). -/
theorem test_witness_update :
    (prog [0x12, 0x00]).Sound ∧ (prog [0x12, 0x00]).fault = none ∧ (prog [0x12, 0x00]).update = none ∧
      (prog [0x12, 0x00]).script = [] ∧ (0 : Seconds) ≤ 1 / 500 ∧
      gives ((prog [0x12, 0x00]).updateWhole (1 / 500) 500) (fun t => t.accT == 1 / 500) ∧
      (State.reset.setScript [.update (1 / 500) 500]).script = .update (1 / 500) 500 :: [] ∧
      (State.reset.setFault (some someFault)).fault ≠ none :=
  ⟨by decide +kernel, by decide, rfl, rfl, by decide +kernel, by decide +kernel, rfl, by decide⟩

end Sys2Proof.Tests
end

section
/-! SUPPORT. The open parameters stay fixed and the list of output events only grows (spec/00_scope.md R5,
spec/47_host_operations.md R190, R191). -/

namespace Sys2Proof.Machine

/-! ## The scheduler and the host operations leave both fields alone

Only an instruction emits an event: every other operation keeps `cfg` and `events` as they are. -/

section

variable (s : State)

@[simp] theorem State.abortUpdate_cfg : s.abortUpdate.cfg = s.cfg := rfl
@[simp] theorem State.abortUpdate_events : s.abortUpdate.events = s.events := rfl

@[simp] theorem State.afterTick_cfg (iv : Seconds) : (s.afterTick iv).cfg = s.cfg := by
  unfold State.afterTick
  cases s.fault <;> rfl

@[simp] theorem State.afterTick_events (iv : Seconds) : (s.afterTick iv).events = s.events := by
  unfold State.afterTick
  cases s.fault <;> rfl

@[simp] theorem State.tick_cfg : s.tick.cfg = s.cfg := by rw [State.tick_eq]
@[simp] theorem State.tick_events : s.tick.events = s.events := by rw [State.tick_eq]

@[simp] theorem State.beginUpdate_cfg (e : Seconds) (ips : Nat) : (s.beginUpdate e ips).cfg = s.cfg := by
  unfold State.beginUpdate
  cases s.fault <;> rfl

@[simp] theorem State.beginUpdate_events (e : Seconds) (ips : Nat) : (s.beginUpdate e ips).events = s.events := by
  unfold State.beginUpdate
  cases s.fault <;> rfl

@[simp] theorem State.resetOp_cfg : s.resetOp.cfg = s.cfg := rfl
@[simp] theorem State.resetOp_events : s.resetOp.events = s.events := rfl

@[simp] theorem State.loadProgram_cfg (bytes : List Byte) : (s.loadProgram bytes).cfg = s.cfg := rfl
@[simp] theorem State.loadProgram_events (bytes : List Byte) : (s.loadProgram bytes).events = s.events := rfl

@[simp] theorem State.invalidRom_cfg : s.invalidRom.cfg = s.cfg := rfl
@[simp] theorem State.invalidRom_events : s.invalidRom.events = s.events := rfl

@[simp] theorem State.keyDown_cfg (k : Nibble) : (s.keyDown k).cfg = s.cfg := rfl
@[simp] theorem State.keyDown_events (k : Nibble) : (s.keyDown k).events = s.events := rfl

@[simp] theorem State.keyUp_cfg (k : Nibble) : (s.keyUp k).cfg = s.cfg := rfl
@[simp] theorem State.keyUp_events (k : Nibble) : (s.keyUp k).events = s.events := rfl

end

/-! ## Every way a step runs, from the instruction outwards -/

section

variable {s t : State}

/-- `ExecuteOne` on an inert core or with a record latched emits nothing; otherwise it is one instruction. -/
theorem executeOne_keeps_cfg_events (h : executeOne s = .next t) : t.cfg = s.cfg ∧ s.events <+: t.events := by
  rcases executeOne_cases h with ⟨-, rfl⟩ | ⟨-, w, k, info, rfl⟩ | ⟨-, -, i, hi⟩
  · exact ⟨rfl, List.prefix_rfl⟩
  · exact ⟨rfl, List.prefix_rfl⟩
  · obtain ⟨-, -, -, -, hcfg, -, hevents, -⟩ := exec_keeps hi
    exact ⟨hcfg, hevents⟩

/-- Of the actions of an `Update`, only the budget tick can emit, through its `ExecuteOne`. -/
theorem updateAction_keeps_cfg_events {c : UpdateCall} (h : updateAction c s = .next t) :
    t.cfg = s.cfg ∧ s.events <+: t.events := by
  rcases updateAction_cases h with ⟨-, -, u, hu, rfl⟩ | ⟨-, -, rfl⟩ | ⟨-, -, rfl⟩ | ⟨-, -, rfl⟩
  · simpa using executeOne_keeps_cfg_events hu
  all_goals simp

/-- `LoadRom` keeps both fields, even where it leaves the rest of the state unspecified. -/
theorem loadRom_keeps_cfg_events {bytes : List Byte} (h : s.loadRom bytes = .next t) :
    t.cfg = s.cfg ∧ t.events = s.events := by
  rcases State.loadRom_cases h with ⟨-, rfl⟩ | ⟨-, -, rfl⟩ <;> simp

/-- Of the host's moves, only those that run `ExecuteOne` can emit. -/
theorem hostMove_keeps_cfg_events {m : HostMove} (h : hostMove m s = .next t) :
    t.cfg = s.cfg ∧ s.events <+: t.events := by
  rcases hostMove_cases h with ⟨-, -, rfl⟩ | ⟨bytes, -, -, hload⟩ | ⟨e, ips, -, -, -, rfl⟩ | ⟨-, -, hone⟩ |
    ⟨k, -, rfl⟩ | ⟨k, -, rfl⟩ | ⟨-, -, rfl⟩ | ⟨-, c, -, hact⟩
  · simp
  · obtain ⟨hcfg, hevents⟩ := loadRom_keeps_cfg_events hload
    exact ⟨hcfg, hevents ▸ List.prefix_rfl⟩
  · simp
  · exact executeOne_keeps_cfg_events hone
  · simp
  · simp
  · exact ⟨rfl, List.prefix_rfl⟩
  · exact updateAction_keeps_cfg_events hact

end

/-- Settles O18: a step is a move of the host, an action of the `Update` in progress or one `ExecuteOne`, and each keeps the
parameters and appends at most to the events; taking the move off `script` touches neither. -/
theorem stepsKeepParametersAndEvents : Obligations.StepsKeepParametersAndEvents := by
  intro s t h
  rcases step_cases h with ⟨m, rest, -, hmove⟩ | ⟨-, c, -, hact⟩ | ⟨-, -, hone⟩
  · simpa using hostMove_keeps_cfg_events hmove
  · exact updateAction_keeps_cfg_events hact
  · exact executeOne_keeps_cfg_events hone

end Sys2Proof.Machine
end

section
/-! SUPPORT. What one instruction does to `PC`, the registers, the call stack and the fault latch, said once, and the obligations
on `PC` and `VF` (spec/10_state.md R21, R35). -/

namespace Sys2Proof.Machine

/-- Where an instruction that does not fault leaves `PC` (spec/10_state.md R35). -/
def PcAfter (i : Instr) (s t : State) : Prop :=
  match i with
  | .jp nnn | .call nnn => t.pc.toNat = nnn.toNat
  | .ret => t.pc = s.slot (s.sp - 1)
  | .seImm _ _ | .sneImm _ _ | .sneReg _ _ | .skp _ | .sknp _ => t.pc = s.pc + 4 ∨ t.pc = s.pc + 2
  | .ldVxK _ => if s.latch = [] then t.pc = s.pc else t.pc = s.pc + 2
  | _ => t.pc = s.pc + 2

/-- What an instruction that does not fault does to the call stack (spec/10_state.md R25). -/
def StackAfter (i : Instr) (s t : State) : Prop :=
  match i with
  | .ret => 0 < s.sp ∧ t.stack = s.stack ∧ t.sp = s.sp - 1
  | .call _ => t.stack = s.stack.set s.sp (s.pc + 2) ∧ t.sp = s.sp + 1
  | _ => t.stack = s.stack ∧ t.sp = s.sp

/-- The instruction has `V[r]` among the registers it may write: its destination, or `VF` as a side effect (spec/10_state.md R20,
R21). -/
def Writes (i : Instr) (r : Nibble) : Prop :=
  match i with
  | .ldImm x _ | .addImm x _ | .rnd x _ | .ldReg x _ | .orReg x _ | .andReg x _ | .xorReg x _ | .ldVxDt x | .ldVxK x => r = x
  | .addReg x _ | .subReg x _ | .shrReg x _ | .subnReg x _ => r = x ∨ r = vf
  | .drw _ _ _ => r = vf
  | .ldRegs x => r.toNat ≤ x.toNat
  | _ => False

/-- The effect of an instruction that does not fault, as far as the parts above go. -/
structure Effect (i : Instr) (s t : State) : Prop where
  fault : t.fault = s.fault
  pc : PcAfter i s t
  stack : StackAfter i s t
  regs : ∀ r, ¬ Writes i r → t.reg r = s.reg r

theorem toNat_target (nnn : Addr12) : (target nnn).toNat = nnn.toNat := by
  have := nnn.isLt
  simp only [target, BitVec.toNat_setWidth]
  omega

theorem State.skipIf_pc_or (s : State) (b : Bool) :
    (s.advance.skipIf b).pc = s.pc + 4 ∨ (s.advance.skipIf b).pc = s.pc + 2 := by
  cases b
  · exact .inr rfl
  · exact .inl (BitVec.add_assoc s.pc 2 2)

/-- No key is the most recent one exactly when none is down (spec/47_host_operations.md R189). -/
theorem State.mostRecentKey_eq_none_iff (s : State) : s.mostRecentKey = none ↔ s.latch = [] :=
  List.getLast?_eq_none_iff

/-- An instruction latches a record and changes nothing else, or has its effect (spec/60_exceptions.md R206). -/
theorem exec_effect {i : Instr} {s t : State} (h : exec i s = .next t) :
    (∃ f, t = s.setFault (some f)) ∨ Effect i s t := by
  cases i
  case ret =>
    simp only [exec, execRet, State.pop_eq] at h
    by_cases hsp : s.sp = 0 <;> simp only [State.advance_sp, hsp, if_true, if_false] at h <;> cases h
    · exact .inl ⟨_, rfl⟩
    · exact .inr ⟨rfl, rfl, ⟨Nat.pos_of_ne_zero hsp, rfl, rfl⟩, fun _ _ => rfl⟩
  case call nnn =>
    simp only [exec, execCall, State.push_eq] at h
    by_cases hsp : s.sp = s.cfg.stackDepth <;>
      simp only [State.advance_sp, State.advance_cfg, hsp, if_true, if_false] at h <;> cases h
    · exact .inl ⟨_, rfl⟩
    · exact .inr ⟨rfl, toNat_target nnn, ⟨rfl, rfl⟩, fun _ _ => rfl⟩
  case drw x y n =>
    simp only [exec, execDrw] at h
    split at h <;> cases h
    · exact .inl ⟨_, rfl⟩
    · exact .inr ⟨by simp, by simp [PcAfter], by simp [StackAfter], fun r hr => by
        simp only [Writes] at hr
        simp [hr]⟩
  case bcd x =>
    simp only [exec, execBcd] at h
    split at h <;> cases h
    · exact .inl ⟨_, rfl⟩
    · exact .inr ⟨rfl, rfl, ⟨rfl, rfl⟩, fun _ _ => rfl⟩
  case ldRegs x =>
    simp only [exec, execLdRegs] at h
    split at h <;> cases h
    · exact .inl ⟨_, rfl⟩
    · exact .inr ⟨rfl, rfl, ⟨rfl, rfl⟩, fun r hr => (s.loadedRegs_get x r).trans (if_neg hr)⟩
  case ldVxK x =>
    simp only [exec, execLdVxK] at h
    split at h <;> cases h
    case h_1 hk =>
      have hl := s.mostRecentKey_eq_none_iff.1 hk
      exact .inr ⟨rfl, by simp [PcAfter, hl], ⟨rfl, rfl⟩, fun _ _ => rfl⟩
    case h_2 k hk =>
      have hl : s.latch ≠ [] := fun hl => by simp [s.mostRecentKey_eq_none_iff.2 hl] at hk
      exact .inr ⟨rfl, by simp [PcAfter, hl], ⟨rfl, rfl⟩, fun r hr => by
        simp only [Writes] at hr
        simp [hr]⟩
  all_goals
    cases h
    right
  case jp nnn => exact ⟨rfl, toNat_target nnn, ⟨rfl, rfl⟩, fun _ _ => rfl⟩
  case seImm | sneImm | sneReg | skp | sknp =>
    exact ⟨by simp, s.skipIf_pc_or _, by simp [StackAfter], by simp⟩
  case cls | snd => exact ⟨by simp, by simp [PcAfter], by simp [StackAfter], by simp⟩
  case ldI | addI | ldF | ldDtVx => exact ⟨rfl, rfl, ⟨rfl, rfl⟩, fun _ _ => rfl⟩
  case addReg | subReg | shrReg | subnReg =>
    exact ⟨rfl, rfl, ⟨rfl, rfl⟩, fun r hr => by
      simp only [Writes, not_or] at hr
      simp [hr]⟩
  case ldImm | addImm | rnd | ldReg | orReg | andReg | xorReg | ldVxDt =>
    exact ⟨rfl, rfl, ⟨rfl, rfl⟩, fun r hr => by
      simp only [Writes] at hr
      simp [rndWith, hr]⟩

/-- Settles O21: a faulting instruction leaves `PC` where it is, every other one as its effect says. -/
theorem programCounterAfterInstruction : Obligations.ProgramCounterAfterInstruction := by
  intro i s t hs h
  rcases exec_effect h with ⟨f, rfl⟩ | e
  · exact ⟨fun _ => rfl, nofun⟩
  · exact ⟨fun hf => absurd (e.fault.trans hs) hf, fun _ => by cases i <;> exact e.pc⟩

/-- Settles O20: an instruction that changes `VF` has it among the registers it may write. -/
theorem flagRegisterWriters : Obligations.FlagRegisterWriters := by
  intro i s t h hne
  have hw : Writes i 0xF := by
    rcases exec_effect h with ⟨f, rfl⟩ | e
    · exact absurd rfl hne
    · by_contra hw
      exact hne (e.regs 0xF hw)
  cases i
  case ldRegs x =>
    have hx : x = 0xF := BitVec.eq_of_toNat_eq (Nat.le_antisymm (Nat.le_of_lt_succ x.isLt) hw)
    simp [hx]
  case addReg | subReg | shrReg | subnReg | drw => simp
  case ldImm x _ | addImm x _ | rnd x _ | ldReg x _ | orReg x _ | andReg x _ | xorReg x _ | ldVxDt x | ldVxK x =>
    have hx : 0xF = x := hw
    simp [hx]
  all_goals exact hw.elim

end Sys2Proof.Machine
end

section
/-! SUPPORT. What no instruction sees: the two accumulators (spec/10_state.md R29) and, but for the three key instructions, the
latch (R30). -/

namespace Sys2Proof.Machine

/-- The state with other accumulators and another latch. -/
def State.withClockAndLatch (s : State) (a b : Seconds) (keys : List Nibble) : State :=
  ((s.setAccI a).setAccT b).setLatch keys

/-- `EX9E`, `EXA1` and `FX0A`, the instructions that read the latch (spec/10_state.md R30). -/
def ReadsLatch (i : Instr) : Prop :=
  ∃ x, i = .skp x ∨ i = .sknp x ∨ i = .ldVxK x

section

variable (s : State) (a b : Seconds) (keys : List Nibble)

theorem State.skipIf_withClockAndLatch (p : Bool) :
    (s.withClockAndLatch a b keys).skipIf p = (s.skipIf p).withClockAndLatch a b keys := by
  cases p <;> rfl

theorem State.emitIf_withClockAndLatch (p : Bool) (e : Event) :
    (s.withClockAndLatch a b keys).emitIf p e = (s.emitIf p e).withClockAndLatch a b keys := by
  cases p <;> rfl

@[simp] theorem State.withClockAndLatch_sp : (s.withClockAndLatch a b keys).sp = s.sp := rfl
@[simp] theorem State.withClockAndLatch_cfg : (s.withClockAndLatch a b keys).cfg = s.cfg := rfl
@[simp] theorem State.withClockAndLatch_indexedOutOfRange (n : Nat) :
    (s.withClockAndLatch a b keys).indexedOutOfRange n = s.indexedOutOfRange n := rfl

/-- An instruction sees neither accumulator, and sees another latch only if it is one of the three that read it. -/
theorem exec_withClockAndLatch (i : Instr) (hi : ReadsLatch i → keys = s.latch) :
    exec i (s.withClockAndLatch a b keys) = thenNext (exec i s) (fun t => t.withClockAndLatch a b keys) := by
  cases i
  case ret =>
    simp only [exec, execRet, State.pop_eq, State.advance_sp, State.withClockAndLatch_sp]
    by_cases hsp : s.sp = 0 <;> simp only [hsp, if_true, if_false] <;> rfl
  case call =>
    simp only [exec, execCall, State.push_eq, State.advance_sp, State.advance_cfg, State.withClockAndLatch_sp,
      State.withClockAndLatch_cfg]
    by_cases hsp : s.sp = s.cfg.stackDepth <;> simp only [hsp, if_true, if_false] <;> rfl
  case drw x y n =>
    simp only [exec, execDrw, State.withClockAndLatch_indexedOutOfRange]
    cases s.indexedOutOfRange n.toNat
    · exact congrArg Host.Outcome.next (State.emitIf_withClockAndLatch
        ((s.advance.setPixels (s.drawn x y n).grid).setReg vf (flagByte (s.drawn x y n).collision)) a b keys _ _)
    · rfl
  case bcd x =>
    simp only [exec, execBcd, State.withClockAndLatch_indexedOutOfRange]
    cases s.indexedOutOfRange 3 <;> rfl
  case ldRegs x =>
    simp only [exec, execLdRegs, State.withClockAndLatch_indexedOutOfRange]
    cases s.indexedOutOfRange (x.toNat + 1) <;> rfl
  case cls => exact congrArg Host.Outcome.next (State.emitIf_withClockAndLatch (s.advance.setPixels Grid.blank) a b keys _ _)
  case seImm | sneImm | sneReg => exact congrArg Host.Outcome.next (s.advance.skipIf_withClockAndLatch a b keys _)
  case skp x | sknp x =>
    obtain rfl := hi ⟨x, by simp⟩
    exact congrArg Host.Outcome.next (s.advance.skipIf_withClockAndLatch a b s.latch _)
  case ldVxK x =>
    obtain rfl := hi ⟨x, by simp⟩
    simp only [exec, execLdVxK, show (s.withClockAndLatch a b s.latch).mostRecentKey = s.mostRecentKey from rfl]
    cases s.mostRecentKey <;> rfl
  all_goals rfl

end

/-- Two functions that agree on the next state an instruction answers give the same result. -/
theorem thenNext_congr {r : Result} {f g : State → State} (h : ∀ t, r = .next t → f t = g t) :
    thenNext r f = thenNext r g := by
  cases r with
  | next t => exact congrArg Host.Outcome.next (h t rfl)
  | fault e => rfl
  | refused e => rfl

/-- Settles O22: with the accumulators an instruction leaves alone, another latch is all that differs. -/
theorem onlyKeyInstructionsSeeTheLatch : Obligations.OnlyKeyInstructionsSeeTheLatch := by
  intro i s keys hi
  have hr : ¬ ReadsLatch i := fun ⟨x, hx⟩ => by simp [hi x] at hx
  refine (exec_withClockAndLatch s s.accI s.accT keys i (absurd · hr)).trans (thenNext_congr fun t h => ?_)
  obtain ⟨haccI, haccT, -⟩ := exec_keeps h
  rw [← haccI, ← haccT]
  rfl

/-- Settles O23: with the latch an instruction leaves alone, other accumulators are all that differs. -/
theorem noInstructionSeesTheAccumulators : Obligations.NoInstructionSeesTheAccumulators := by
  intro i s a b
  refine (exec_withClockAndLatch s a b s.latch i fun _ => rfl).trans (thenNext_congr fun t h => ?_)
  obtain ⟨-, -, hlatch, -⟩ := exec_keeps h
  rw [← hlatch]
  rfl

end Sys2Proof.Machine
end

section
/-! SUPPORT. Invariants of the step: what has to be shown of each action of the core and of the host, and the obligations on the
form of the state, the addresses and the clocks (spec/10_state.md R23, R24, R29, R30, R36). -/

namespace Sys2Proof.Machine

/-! ## The actions a step consists of -/

/-- `P` is kept by every action of the core and of the host, one field per action, each with what the step knows when it takes
the action. -/
structure KeptByActions (P : State → Prop) : Prop where
  script : ∀ s ms, P s → P (s.setScript ms)
  single : ∀ s t, P s → s.update = none → executeOne s = .next t → P t
  budgetTick : ∀ s c u, P s → s.update = some c → c.phase = .instructions → interval c.ips ≤ s.accI →
    executeOne s = .next u → P (u.afterTick (interval c.ips))
  startTimers : ∀ s c, P s → s.update = some c → c.phase = .instructions → s.accI < interval c.ips →
    P ((s.setAccT (s.accT + c.elapsed)).setUpdate (some { c with phase := .timers }))
  timerTick : ∀ s c, P s → s.update = some c → c.phase = .timers → timerInterval ≤ s.accT → P s.tick
  finish : ∀ s c, P s → s.update = some c → c.phase = .timers → s.accT < timerInterval → P (s.setUpdate none)
  reset : ∀ s, P s → P s.resetOp
  invalidRom : ∀ s, P s → P s.invalidRom
  loadProgram : ∀ s bytes, P s → bytes.length ≤ romMax → P (s.loadProgram bytes)
  beginUpdate : ∀ s elapsed ips, P s → s.update = none → 0 ≤ elapsed → P (s.beginUpdate elapsed ips)
  keyDown : ∀ s k, P s → P (s.keyDown k)
  keyUp : ∀ s k, P s → P (s.keyUp k)

section

variable {P : State → Prop} {s t : State}

theorem KeptByActions.updateAction (kept : KeptByActions P) {c : UpdateCall} (hc : s.update = some c) (hs : P s)
    (h : updateAction c s = .next t) : P t := by
  rcases updateAction_cases h with ⟨hp, hdue, u, hu, rfl⟩ | ⟨hp, hdone, rfl⟩ | ⟨hp, hdue, rfl⟩ | ⟨hp, hdone, rfl⟩
  · exact kept.budgetTick s c u hs hc hp hdue hu
  · exact kept.startTimers s c hs hc hp hdone
  · exact kept.timerTick s c hs hc hp hdue
  · exact kept.finish s c hs hc hp hdone

theorem KeptByActions.hostMove (kept : KeptByActions P) {m : HostMove} (hs : P s) (h : hostMove m s = .next t) : P t := by
  rcases hostMove_cases h with ⟨-, -, rfl⟩ | ⟨bytes, -, -, hload⟩ | ⟨e, ips, -, hu, he, rfl⟩ | ⟨-, hu, hone⟩ |
    ⟨k, -, rfl⟩ | ⟨k, -, rfl⟩ | ⟨-, -, rfl⟩ | ⟨-, c, hc, hact⟩
  · exact kept.reset s hs
  · rcases State.loadRom_cases hload with ⟨-, rfl⟩ | ⟨-, hlen, rfl⟩
    · exact kept.invalidRom s hs
    · exact kept.loadProgram s bytes hs hlen
  · exact kept.beginUpdate s e ips hs hu he
  · exact kept.single s t hs hu hone
  · exact kept.keyDown s k hs
  · exact kept.keyUp s k hs
  · exact hs
  · exact kept.updateAction hc hs hact

/-- What every action keeps, every step keeps. -/
theorem KeptByActions.step (kept : KeptByActions P) (hs : P s) (h : step s = .next t) : P t := by
  rcases step_cases h with ⟨m, rest, -, hmove⟩ | ⟨-, c, hc, hact⟩ | ⟨-, hu, hone⟩
  · exact kept.hostMove (kept.script s rest hs) hmove
  · exact kept.updateAction hc hs hact
  · exact kept.single s t hs hu hone

end

/-! ## `ExecuteOne` and the accounting after it -/

section

variable {s t : State}

/-- `ExecuteOne` keeps what `exec_keeps` says an instruction keeps. -/
theorem executeOne_keeps (h : executeOne s = .next t) :
    t.accI = s.accI ∧ t.accT = s.accT ∧ t.latch = s.latch ∧ t.update = s.update ∧ t.cfg = s.cfg ∧
      t.stack.length = s.stack.length ∧ (s.sp ≤ s.cfg.stackDepth → t.sp ≤ s.cfg.stackDepth) ∧
      (Memory.wf s.cfg s.mem = true → Memory.wf s.cfg t.mem = true) := by
  rcases executeOne_cases h with ⟨-, rfl⟩ | ⟨-, w, k, info, rfl⟩ | ⟨-, -, i, hi⟩
  · simp
  · simp
  · obtain ⟨haccI, haccT, hlatch, hupdate, hcfg, -, -, hlen, hsp, hmem⟩ := exec_keeps hi
    exact ⟨haccI, haccT, hlatch, hupdate, hcfg, hlen, hsp, hmem⟩

/-- A fault latched before `ExecuteOne` is latched after it (spec/60_exceptions.md R208). -/
theorem fault_eq_none_of_executeOne (h : executeOne s = .next t) (ht : t.fault = none) : s.fault = none := by
  rcases executeOne_cases h with ⟨-, rfl⟩ | ⟨hs, -⟩ | ⟨hs, -⟩
  · exact ht
  · exact hs
  · exact hs

/-- After the budget tick's `ExecuteOne` a fault ends the call, and no fault costs one interval (spec/47_host_operations.md R181,
R182, R185). -/
theorem State.afterTick_cases (s : State) (iv : Seconds) :
    (s.fault ≠ none ∧ s.afterTick iv = s.abortUpdate) ∨ (s.fault = none ∧ s.afterTick iv = s.setAccI (s.accI - iv)) := by
  unfold State.afterTick
  cases s.fault with
  | some f => exact .inl ⟨nofun, rfl⟩
  | none => exact .inr ⟨rfl, rfl⟩

@[simp] theorem State.tick_fault (s : State) : s.tick.fault = s.fault := by rw [State.tick_eq]
@[simp] theorem State.tick_update (s : State) : s.tick.update = s.update := by rw [State.tick_eq]
@[simp] theorem State.tick_accI (s : State) : s.tick.accI = s.accI := by rw [State.tick_eq]

/-- `Update` on a faulted core does nothing; otherwise it begins a call (spec/47_host_operations.md R181, R185). -/
theorem State.beginUpdate_cases (s : State) (elapsed : Seconds) (ips : Nat) :
    (s.fault ≠ none ∧ s.beginUpdate elapsed ips = s) ∨
      (s.fault = none ∧ s.beginUpdate elapsed ips =
        (s.setAccI (s.accI + elapsed)).setUpdate (some { elapsed := elapsed, ips := ips, phase := .instructions })) := by
  unfold State.beginUpdate
  cases s.fault with
  | some f => exact .inl ⟨nofun, rfl⟩
  | none => exact .inr ⟨rfl, rfl⟩

end

/-! ## The form of the state -/

/-- `SetKeyDown` puts no key into the latch twice (spec/10_state.md R30). -/
theorem State.nodup_keyDown_latch {s : State} (h : s.latch.Nodup) (k : Nibble) : (s.keyDown k).latch.Nodup :=
  (h.filter _).append (List.nodup_singleton k) (by simp)

/-- `ExecuteOne` keeps the form of the state, but for what `Sound` says of a fault: the record may be new. -/
theorem executeOne_keeps_sound {s t : State} (hs : s.Sound) (h : executeOne s = .next t) : (t.setFault none).Sound := by
  obtain ⟨hcfg, hmem, hlen, hsp, hlatch, hI, hT, helapsed, -⟩ := hs
  obtain ⟨eI, eT, elatch, eupdate, ecfg, elen, ksp, kmem⟩ := executeOne_keeps h
  simp only [State.Sound, State.setFault_accI, State.setFault_accT, State.setFault_latch, State.setFault_update,
    State.setFault_cfg, State.setFault_stack, State.setFault_sp, State.setFault_mem, eI, eT, elatch, eupdate, ecfg, elen]
  exact ⟨hcfg, kmem hmem, hlen, ksp hsp, hlatch, hI, hT, helapsed, nofun⟩

/-- A fault ends the call in progress and frees the accumulators, which stay non-negative (spec/47_host_operations.md R185). -/
theorem State.sound_abortUpdate {s : State} (hs : (s.setFault none).Sound) : s.abortUpdate.Sound := by
  obtain ⟨hcfg, hmem, hlen, hsp, hlatch, -⟩ := hs
  exact ⟨hcfg, hmem, hlen, hsp, hlatch, Config.freeSeconds_nonneg _, Config.freeSeconds_nonneg _, rfl, fun _ => rfl⟩

theorem keptByActions_sound : KeptByActions State.Sound where
  script _ _ hs := hs
  single s t hs hu h := by
    obtain ⟨hcfg, hmem, hlen, hsp, hlatch, hI, hT, helapsed, -⟩ := executeOne_keeps_sound hs h
    obtain ⟨-, -, -, eupdate, -⟩ := executeOne_keeps h
    exact ⟨hcfg, hmem, hlen, hsp, hlatch, hI, hT, helapsed, fun _ => eupdate.trans hu⟩
  budgetTick s c u hs _ _ hdue h := by
    have hform := executeOne_keeps_sound hs h
    rcases u.afterTick_cases (interval c.ips) with ⟨-, ht⟩ | ⟨hf, ht⟩ <;> rw [ht]
    · exact u.sound_abortUpdate hform
    · obtain ⟨hcfg, hmem, hlen, hsp, hlatch, -, hT, helapsed, -⟩ := hform
      obtain ⟨eI, -⟩ := executeOne_keeps h
      exact ⟨hcfg, hmem, hlen, hsp, hlatch, sub_nonneg.2 (hdue.trans_eq eI.symm), hT, helapsed, fun hne => absurd hf hne⟩
  startTimers _ c hs hc _ _ := by
    obtain ⟨hcfg, hmem, hlen, hsp, hlatch, hI, hT, helapsed, hfault⟩ := hs
    rw [hc] at helapsed
    exact ⟨hcfg, hmem, hlen, hsp, hlatch, hI, add_nonneg hT (of_decide_eq_true helapsed), helapsed,
      fun hne => absurd ((hfault hne).symm.trans hc) nofun⟩
  timerTick s c hs hc _ hdue := by
    obtain ⟨hcfg, hmem, hlen, hsp, hlatch, hI, hT, helapsed, hfault⟩ := hs
    rw [State.tick_eq]
    exact ⟨hcfg, hmem, hlen, hsp, hlatch, hI, sub_nonneg.2 hdue, helapsed, hfault⟩
  finish s c hs _ _ _ := by
    obtain ⟨hcfg, hmem, hlen, hsp, hlatch, hI, hT, -, -⟩ := hs
    exact ⟨hcfg, hmem, hlen, hsp, hlatch, hI, hT, rfl, fun _ => rfl⟩
  reset s hs := by
    obtain ⟨hcfg, -, -, -, hlatch, -⟩ := hs
    exact ⟨hcfg, Memory.wf_nil, List.length_replicate, Nat.zero_le _, hlatch, le_rfl, le_rfl, rfl, fun _ => rfl⟩
  invalidRom s hs := by
    obtain ⟨hcfg, -⟩ := hs
    obtain ⟨hmem, hlen, hsp, hlatch, hI, hT⟩ := s.invalidRom_form
    exact ⟨hcfg, hmem, hlen, hsp, hlatch, hI, hT, rfl, fun _ => rfl⟩
  loadProgram s bytes hs hbytes := by
    obtain ⟨hcfg, -, -, -, hlatch, -⟩ := hs
    have hend : programBase + bytes.length ≤ 0x1000 := by
      simp only [programBase, romMax] at hbytes ⊢
      omega
    exact ⟨hcfg, Memory.wf_writeList Memory.wf_nil _ _ hend, List.length_replicate, Nat.zero_le _, hlatch, le_rfl, le_rfl,
      rfl, fun _ => rfl⟩
  beginUpdate s elapsed ips hs _ he := by
    rcases s.beginUpdate_cases elapsed ips with ⟨-, ht⟩ | ⟨hf, ht⟩ <;> rw [ht]
    · exact hs
    · obtain ⟨hcfg, hmem, hlen, hsp, hlatch, hI, hT, -, -⟩ := hs
      exact ⟨hcfg, hmem, hlen, hsp, hlatch, add_nonneg hI he, hT, decide_eq_true he, fun hne => absurd hf hne⟩
  keyDown s k hs := by
    obtain ⟨hcfg, hmem, hlen, hsp, hlatch, hrest⟩ := hs
    exact ⟨hcfg, hmem, hlen, hsp, State.nodup_keyDown_latch hlatch k, hrest⟩
  keyUp s k hs := by
    obtain ⟨hcfg, hmem, hlen, hsp, hlatch, hrest⟩ := hs
    exact ⟨hcfg, hmem, hlen, hsp, hlatch.filter _, hrest⟩

/-- Settles O15: every action of the core and of the host keeps the form of the state. -/
theorem stepKeepsStateSound : Obligations.StepKeepsStateSound :=
  fun _ _ => keptByActions_sound.step

/-! ## Addresses -/

section

variable {i : Instr} {s t : State} {w : Word}

/-- Behind a fetch that found both its bytes, an instruction that does not fault leaves `PC` at most 0x1002
(spec/10_state.md R23). -/
theorem Effect.pc_le (e : Effect i s t) (hpc : s.pc.toNat ≤ 0xFFE) (hslot : ∀ j, j < s.sp → (s.slot j).toNat ≤ 0x1000) :
    t.pc.toNat ≤ 0x1002 := by
  have h2 : (s.pc + 2).toNat ≤ 0x1000 := by bv_omega
  have h4 : (s.pc + 4).toNat ≤ 0x1002 := by bv_omega
  have hp := e.pc
  cases i
  case jp nnn | call nnn =>
    have hnnn : t.pc.toNat = nnn.toNat := hp
    omega
  case ret =>
    obtain ⟨hpos, -, -⟩ := e.stack
    have htop : t.pc = s.slot (s.sp - 1) := hp
    exact htop ▸ (hslot (s.sp - 1) (by omega)).trans (by decide)
  case seImm | sneImm | sneReg | skp | sknp => rcases hp with hp | hp <;> rw [hp] <;> omega
  case ldVxK x =>
    simp only [PcAfter] at hp
    split at hp <;> rw [hp] <;> omega
  all_goals
    have hnext : t.pc = s.pc + 2 := hp
    rw [hnext]
    omega

/-- A slot reads the same from the same list. -/
theorem State.slot_of_stack_eq (hstack : t.stack = s.stack) (j : Nat) : t.slot j = s.slot j := by
  rw [State.slot, hstack, State.slot]

/-- A slot below the new `SP` after a push: an older one, the pushed word, or a slot the list does not hold. -/
theorem State.slot_of_push (hstack : t.stack = s.stack.set s.sp w) {j : Nat} (hj : j < s.sp + 1) :
    (j < s.sp ∧ t.slot j = s.slot j) ∨ t.slot j = w ∨ t.slot j = 0 := by
  unfold State.slot
  rw [hstack, List.getD_eq_getElem?_getD, List.getD_eq_getElem?_getD, List.getElem?_set]
  by_cases hsp : s.sp = j
  · right
    by_cases hlen : s.sp < s.stack.length <;> simp [hsp ▸ hlen, hsp]
  · exact .inl ⟨by omega, by simp [hsp]⟩

/-- A return address is one that was there before, or the address after a `CALL` (spec/10_state.md R25). -/
theorem Effect.slot_le (e : Effect i s t) (hpc : s.pc.toNat ≤ 0xFFE) (hslot : ∀ j, j < s.sp → (s.slot j).toNat ≤ 0x1000)
    (j : Nat) (hj : j < t.sp) : (t.slot j).toNat ≤ 0x1000 := by
  have hst := e.stack
  cases i
  case call nnn =>
    obtain ⟨hstack, hsp⟩ := hst
    rcases State.slot_of_push hstack (hsp ▸ hj) with ⟨hlt, hold⟩ | hnew | habsent
    · exact hold ▸ hslot j hlt
    · rw [hnew]
      bv_omega
    · simp [habsent]
  case ret =>
    obtain ⟨-, hstack, hsp⟩ := hst
    rw [State.slot_of_stack_eq hstack]
    exact hslot j (by omega)
  all_goals
    obtain ⟨hstack, hsp⟩ := hst
    rw [State.slot_of_stack_eq hstack]
    exact hslot j (hsp ▸ hj)

end

/-- The addresses stay in reach through `ExecuteOne`: it fetches only where both bytes exist. -/
theorem executeOne_keeps_inReach {s t : State} (hs : s.InReach) (h : executeOne s = .next t) : t.InReach := by
  rcases executeOne_cases h with ⟨-, rfl⟩ | ⟨-, w, k, info, rfl⟩ | ⟨hf, hpc, i, hi⟩
  · exact hs
  · exact nofun
  · obtain ⟨-, hslot⟩ := hs hf
    rcases exec_effect hi with ⟨f, rfl⟩ | e
    · exact nofun
    · exact fun _ => ⟨e.pc_le hpc hslot, e.slot_le hpc hslot⟩

/-- Right after a reset `PC` is 0x200 and no return address is valid (spec/10_state.md R36). -/
theorem State.inReach_resetOp (s : State) : s.resetOp.InReach :=
  fun _ => ⟨show 0x200 ≤ 0x1002 by decide, fun _ hj => absurd hj (Nat.not_lt_zero _)⟩

theorem keptByActions_inReach : KeptByActions State.InReach where
  script _ _ hs := hs
  single _ _ hs _ h := executeOne_keeps_inReach hs h
  budgetTick s c u hs _ _ _ h := by
    have hu := executeOne_keeps_inReach hs h
    rcases u.afterTick_cases (interval c.ips) with ⟨-, ht⟩ | ⟨-, ht⟩ <;> rw [ht] <;> exact hu
  startTimers _ _ hs _ _ _ := hs
  timerTick s _ hs _ _ _ := by
    rw [State.tick_eq]
    exact hs
  finish _ _ hs _ _ _ := hs
  reset s _ := s.inReach_resetOp
  invalidRom _ _ := nofun
  loadProgram s _ _ _ := s.inReach_resetOp
  beginUpdate s elapsed ips hs _ _ := by
    rcases s.beginUpdate_cases elapsed ips with ⟨-, ht⟩ | ⟨-, ht⟩ <;> rw [ht] <;> exact hs
  keyDown _ _ hs := hs
  keyUp _ _ hs := hs

/-- Settles O16: every action of the core and of the host keeps the addresses in reach. -/
theorem stepKeepsAddressesInReach : Obligations.StepKeepsAddressesInReach :=
  fun _ _ => keptByActions_inReach.step

/-! ## Clocks -/

section

variable {s : State}

/-- Between calls (spec/10_state.md R29). -/
theorem State.clockBounded_idle (hu : s.update = none) : s.ClockBounded ↔ (s.fault = none → s.accT < timerInterval) := by
  simp only [State.ClockBounded, hu, timerInterval]

/-- In the instruction loop of a call. -/
theorem State.clockBounded_instructions {c : UpdateCall} (hu : s.update = some c) (hp : c.phase = .instructions) :
    s.ClockBounded ↔ (s.fault = none → s.accT < timerInterval) := by
  simp only [State.ClockBounded, hu, hp, timerInterval]

/-- In the timer loop of a call. -/
theorem State.clockBounded_timers {c : UpdateCall} (hu : s.update = some c) (hp : c.phase = .timers) :
    s.ClockBounded ↔ (s.fault = none → s.accI < interval c.ips) := by
  simp only [State.ClockBounded, hu, hp]

end

/-- Right after a reset nothing is accumulated (spec/10_state.md R36). -/
theorem State.clockBounded_resetOp (s : State) : s.resetOp.ClockBounded :=
  (State.clockBounded_idle rfl).2 fun _ => show (0 : Rat) < 1 / 60 by norm_num

theorem keptByActions_clockBounded : KeptByActions State.ClockBounded where
  script _ _ hs := hs
  single s t hs hu h := by
    obtain ⟨-, eT, -, eupdate, -⟩ := executeOne_keeps h
    rw [State.clockBounded_idle hu] at hs
    rw [State.clockBounded_idle (eupdate.trans hu), eT]
    exact fun ht => hs (fault_eq_none_of_executeOne h ht)
  budgetTick s c u hs hc hp _ h := by
    obtain ⟨-, eT, -, eupdate, -⟩ := executeOne_keeps h
    rcases u.afterTick_cases (interval c.ips) with ⟨hf, ht⟩ | ⟨hf, ht⟩ <;> rw [ht]
    · exact fun ht => absurd ht hf
    · rw [State.clockBounded_instructions hc hp] at hs
      have hu : (u.setAccI (u.accI - interval c.ips)).update = some c := eupdate.trans hc
      rw [State.clockBounded_instructions hu hp, State.setAccI_accT, eT]
      exact fun _ => hs (fault_eq_none_of_executeOne h hf)
  startTimers s c _ _ _ hdone := (State.clockBounded_timers (c := { c with phase := .timers }) rfl rfl).2 fun _ => hdone
  timerTick s c hs hc hp _ := by
    rw [State.clockBounded_timers hc hp] at hs
    rwa [State.clockBounded_timers (s.tick_update.trans hc) hp, State.tick_fault, State.tick_accI]
  finish s c hs _ _ hdone := (State.clockBounded_idle rfl).2 fun _ => hdone
  reset s _ := s.clockBounded_resetOp
  invalidRom _ _ := nofun
  loadProgram s _ _ _ := s.clockBounded_resetOp
  beginUpdate s elapsed ips hs hu _ := by
    rcases s.beginUpdate_cases elapsed ips with ⟨-, ht⟩ | ⟨-, ht⟩ <;> rw [ht]
    · exact hs
    · exact (State.clockBounded_instructions rfl rfl).2 ((State.clockBounded_idle hu).1 hs)
  keyDown _ _ hs := hs
  keyUp _ _ hs := hs

/-- Settles O17: every action of the core and of the host keeps the clocks bounded. -/
theorem stepKeepsClockBounded : Obligations.StepKeepsClockBounded :=
  fun _ _ => keptByActions_clockBounded.step

/-! ## Power-on -/

/-- The font is what an unlisted address below 80 reads as (spec/20_memory.md R51). -/
theorem Memory.background_font (c : Config) {a : Nat} (ha : a < 80) : some (Memory.background c a) = c.font[a]? := by
  simp [Memory.background, ha]

/-- An unlisted address from 80 on reads as zero (spec/10_state.md R36). -/
theorem Memory.background_zero (c : Config) {a : Nat} (ha : 80 ≤ a) : Memory.background c a = 0 := by
  simp [Memory.background, Nat.not_lt.2 ha]

/-- Every stack slot is zero after power-on, those the list does not hold included. -/
theorem State.slot_resetWith (c : Config) (j : Nat) : (State.resetWith c).slot j = 0 := by
  simp only [State.slot, State.resetWith, List.getD_eq_getElem?_getD, List.getElem?_replicate]
  split <;> rfl

/-- The state after power-on has its form whenever the parameters are legal. -/
theorem State.sound_resetWith {c : Config} (hc : c.wellFormed = true) : (State.resetWith c).Sound :=
  ⟨hc, Memory.wf_nil, List.length_replicate, Nat.zero_le _, List.nodup_nil, le_rfl, le_rfl, rfl, fun _ => rfl⟩

/-- A reset of the state after power-on changes nothing. -/
theorem State.reset_resetOp : State.reset.resetOp = State.reset := rfl

/-- Settles O14: the state after power-on is what a reset of it leaves, with the default parameters, which are legal. -/
theorem resetMeetsInvariants : Obligations.ResetMeetsInvariants := by
  obtain ⟨hreg, hpixel, hbyte⟩ := State.reset.resetOp_reads
  have hreach := State.reset.inReach_resetOp
  have hclock := State.reset.clockBounded_resetOp
  rw [State.reset_resetOp] at hreg hpixel hbyte hreach hclock
  exact ⟨State.sound_resetWith (by decide), hreach, hclock, rfl, hreg, rfl, rfl, State.slot_resetWith _, rfl, rfl, rfl, hpixel,
    rfl, rfl, fun a ha => (congrArg some (hbyte a)).trans (Memory.background_font _ ha),
    fun a ha => (hbyte a).trans (Memory.background_zero _ ha)⟩

end Sys2Proof.Machine
end

section
/-! SUPPORT. Which instruction stores to memory, what a store changes, and that the next fetch sees it (spec/20_memory.md R55, R56,
R60, R61). -/

namespace Sys2Proof.Machine

/-! ## Only `FX33` stores -/

/-- Behind an instruction other than `FX33` memory is the very list of cells it was. -/
theorem exec_keeps_mem {i : Instr} {s t : State} (hi : ∀ x, i ≠ .bcd x) (h : exec i s = .next t) : t.mem = s.mem := by
  cases i
  case bcd x => exact absurd rfl (hi x)
  case ret =>
    simp only [exec, execRet, State.pop_eq] at h
    by_cases hsp : s.sp = 0 <;> simp only [State.advance_sp, hsp, if_true, if_false] at h <;> cases h <;> rfl
  case call nnn =>
    simp only [exec, execCall, State.push_eq] at h
    by_cases hsp : s.sp = s.cfg.stackDepth <;>
      simp only [State.advance_sp, State.advance_cfg, hsp, if_true, if_false] at h <;> cases h <;> rfl
  case drw x y n =>
    simp only [exec, execDrw] at h
    split at h <;> cases h
    · rfl
    · simp
  case ldRegs x =>
    simp only [exec, execLdRegs] at h
    split at h <;> cases h <;> rfl
  case ldVxK x =>
    simp only [exec, execLdVxK] at h
    split at h <;> cases h <;> rfl
  all_goals cases h
  case cls | seImm | sneImm | sneReg | skp | sknp | snd => simp
  all_goals rfl

/-- Settles O19: a byte is read from the cells and the parameters, and the instruction keeps both. -/
theorem onlyBcdStoresToMemory : Obligations.OnlyBcdStoresToMemory := by
  intro i s t hi h a
  obtain ⟨-, -, -, -, hcfg, -⟩ := exec_keeps h
  simp only [State.byteAt, hcfg, exec_keeps_mem hi h]

/-! ## What a store changes -/

/-- A stored byte reads back. -/
theorem State.byteAt_storeBytes_inside {s : State} (h : Memory.wf s.cfg s.mem = true) (a : Nat) (ws : List Byte) {k : Nat}
    (hk : k < ws.length) : (s.storeBytes a ws).byteAt (a + k) = ws[k] :=
  Memory.read_writeList_inside (Bool.and_eq_true_iff.1 h).1 a ws k hk

/-- Memory is the only store a store touches (spec/20_memory.md R61). -/
theorem State.frame_storeBytes (s : State) (a : Nat) (ws : List Byte) : Frame [] [.memory] s (s.storeBytes a ws) := by
  refine ⟨fun _ _ => rfl, fun p hp => ?_⟩
  cases p
  case memory => simp at hp
  case stack | clock => exact ⟨rfl, rfl⟩
  case pixels => exact fun _ _ => rfl
  all_goals rfl

/-- Settles O48: the bytes inside the store, the addresses outside it, and the other parts of the state. -/
theorem storedBytesReadBack : Obligations.StoredBytesReadBack := fun s a ws h =>
  ⟨fun _ hk => State.byteAt_storeBytes_inside h a ws hk, s.byteAt_storeBytes_of_outside a ws, s.frame_storeBytes a ws⟩

/-! ## The next fetch sees a store -/

/-- `FX33` where its three addresses exist: the digits from `I` upward (spec/46_index_memory.md R172). -/
theorem exec_bcd_of_inRange (x : Nibble) {s : State} (hi : s.i.toNat + 2 ≤ 0xFFF) :
    exec (.bcd x) s = .next (s.advance.storeBytes s.i.toNat (digits (s.reg x))) := by
  have hr : s.indexedOutOfRange 3 = none := (outOfRange_eq_none_iff _ _).2 fun k hk => by omega
  simp only [exec, execBcd, hr]
  rfl

/-- The digits as numbers: each is below 10, so its byte holds it whole. -/
theorem exists_digits (b : Byte) : ∃ hundreds tens units : Byte, digits b = [hundreds, tens, units] ∧
    hundreds.toNat = b.toNat / 100 ∧ tens.toNat = b.toNat / 10 % 10 ∧ units.toNat = b.toNat % 10 := by
  have hb := b.isLt
  refine ⟨_, _, _, rfl, ?_⟩
  simp only [BitVec.toNat_ofNat]
  omega

/-- Two bytes stored at `PC` are the high and the low byte of the next fetch (spec/20_memory.md R53, R60). -/
theorem State.fetch_storeBytes {s : State} (h : Memory.wf s.cfg s.mem = true) (hpc : s.pc.toNat ≤ 0xFFE) (hi lo : Byte)
    (ws : List Byte) : (s.storeBytes s.pc.toNat (hi :: lo :: ws)).fetch = some (wordOfBytes hi lo) := by
  have hread (k : Nat) (hk : k < (hi :: lo :: ws).length) := State.byteAt_storeBytes_inside h s.pc.toNat _ hk
  have hhi : (s.storeBytes s.pc.toNat (hi :: lo :: ws)).byteAt s.pc.toNat = hi := hread 0 (by simp)
  have hlo : (s.storeBytes s.pc.toNat (hi :: lo :: ws)).byteAt (s.pc.toNat + 1) = lo := hread 1 (by simp)
  rw [State.fetch_eq, State.storeBytes_pc, if_pos hpc, hhi, hlo]

/-- Settles O49: with `I` at the next instruction the store begins at the advanced `PC`, so the fetch reads its first two
digits. -/
theorem nextFetchSeesAStore : Obligations.NextFetchSeesAStore := by
  intro x s h hi hrange
  obtain ⟨hundreds, tens, units, hdigits, hhundreds, htens, -⟩ := exists_digits (s.reg x)
  have hpc : s.advance.pc = s.i := hi.symm
  have hfetch := State.fetch_storeBytes (s := s.advance) h (by rw [hpc]; omega) hundreds tens [units]
  rw [hpc, ← hdigits] at hfetch
  refine ⟨_, _, exec_bcd_of_inRange x hrange, hfetch, ?_⟩
  rw [toNat_wordOfBytes, hhundreds, htens]

end Sys2Proof.Machine
end

section
/-! SUPPORT. Encoding and decoding are inverse to each other, and the words that decode are those that select a row of the
opcode map (spec/30_encoding.md R70 to R77). -/

namespace Sys2Proof

/-! ## The outputs of the decoder -/

section

variable (w : Word)

@[simp] theorem opCode_set : (opCode w).set = setField w := rfl
@[simp] theorem opCode_x : (opCode w).x = xField w := rfl
@[simp] theorem opCode_y : (opCode w).y = yField w := rfl
@[simp] theorem opCode_n : (opCode w).n = nField w := rfl
@[simp] theorem opCode_nn : (opCode w).nn = nnField w := rfl
@[simp] theorem opCode_nnn : (opCode w).nnn = nnnField w := rfl

end

/-- Settles O3: each field is a quotient and a remainder of the word. -/
theorem wordRoundTripsThroughFields : Obligations.WordRoundTripsThroughFields := by
  intro w
  have hw := w.isLt
  simp only [opCode_set, opCode_x, opCode_y, opCode_n, toNat_setField, toNat_xField, toNat_yField, toNat_nField,
    Nat.shiftRight_eq_div_pow]
  omega

/-! ## From the instruction to the word and back -/

/-- The dispatch structure of R76 finds the row an instruction was encoded by, and its operands where its format class puts
them. -/
theorem decodeOpCode_encode (i : Instr) : decodeOpCode (opCode i.encode) = some i := by
  cases i
  case cls | ret => rfl
  case ldReg | orReg | andReg | xorReg | addReg | subReg | shrReg | subnReg =>
    simp [Instr.encode, decodeOpCode, decodeFamily8]
  case sneReg => simp [Instr.encode, decodeOpCode, decodeFamily9]
  case skp | sknp => simp [Instr.encode, decodeOpCode, decodeFamilyE]
  case ldVxDt | ldVxK | ldDtVx | snd | addI | ldF | bcd | ldRegs => simp [Instr.encode, decodeOpCode, decodeFamilyF]
  all_goals simp [Instr.encode, decodeOpCode]

/-- A word decodes to what its fields select. -/
theorem decodeWord_eq_ok_iff_decodeOpCode {w : Word} {i : Instr} :
    decodeWord w = .ok i ↔ decodeOpCode (opCode w) = some i := by
  unfold decodeWord
  cases decodeOpCode (opCode w) <;> simp

theorem decodeWord_encode (i : Instr) : decodeWord i.encode = .ok i :=
  decodeWord_eq_ok_iff_decodeOpCode.2 (decodeOpCode_encode i)

/-- Settles O1: the two bytes make the encoded word again, which decodes to the instruction. -/
theorem encodeThenDecode : Obligations.EncodeThenDecode := by
  intro i rest
  simp [Instr.encodeBytes, decodeBytes, decodeWord_encode]

/-! ## From the word to the instruction and back

A word is the encoding, by a format class, of the fields it has. -/

section

variable {w : Word} {set x y n : Nibble} {nn : Byte} {nnn : Addr12} {i : Instr}

theorem encodeA_eq_iff : encodeA set nnn = w ↔ setField w = set ∧ nnnField w = nnn := by
  constructor
  · rintro rfl
    simp
  · rintro ⟨rfl, rfl⟩
    exact encodeA_fields w

theorem encodeXI_eq_iff : encodeXI set x nn = w ↔ setField w = set ∧ xField w = x ∧ nnField w = nn := by
  constructor
  · rintro rfl
    simp
  · rintro ⟨rfl, rfl, rfl⟩
    exact encodeXI_fields w

theorem encodeXYN_eq_iff :
    encodeXYN set x y n = w ↔ setField w = set ∧ xField w = x ∧ yField w = y ∧ nField w = n := by
  constructor
  · rintro rfl
    simp
  · rintro ⟨rfl, rfl, rfl, rfl⟩
    exact encodeXYN_fields w

/-! The secondary mappings: the family and the selector they matched, with the fields they took as operands, are all of the
word. -/

theorem encode_of_decodeFamily0 (hset : setField w = 0x0) (h : decodeFamily0 (opCode w) = some i) : i.encode = w := by
  simp only [decodeFamily0, opCode_nnn] at h
  split at h
  case h_3 => cases h
  all_goals
    cases h
    exact encodeA_eq_iff.2 ⟨hset, ‹nnnField w = _›⟩

theorem encode_of_decodeFamily8 (hset : setField w = 0x8) (h : decodeFamily8 (opCode w) = some i) : i.encode = w := by
  simp only [decodeFamily8, opCode_n] at h
  split at h
  case h_9 => cases h
  all_goals
    cases h
    exact encodeXYN_eq_iff.2 ⟨hset, rfl, rfl, ‹nField w = _›⟩

theorem encode_of_decodeFamily9 (hset : setField w = 0x9) (h : decodeFamily9 (opCode w) = some i) : i.encode = w := by
  simp only [decodeFamily9, opCode_n] at h
  split at h
  case h_2 => cases h
  cases h
  exact encodeXYN_eq_iff.2 ⟨hset, rfl, rfl, ‹nField w = _›⟩

theorem encode_of_decodeFamilyE (hset : setField w = 0xE) (h : decodeFamilyE (opCode w) = some i) : i.encode = w := by
  simp only [decodeFamilyE, opCode_nn] at h
  split at h
  case h_3 => cases h
  all_goals
    cases h
    exact encodeXI_eq_iff.2 ⟨hset, rfl, ‹nnField w = _›⟩

theorem encode_of_decodeFamilyF (hset : setField w = 0xF) (h : decodeFamilyF (opCode w) = some i) : i.encode = w := by
  simp only [decodeFamilyF, opCode_nn] at h
  split at h
  case h_9 => cases h
  all_goals
    cases h
    exact encodeXI_eq_iff.2 ⟨hset, rfl, ‹nnField w = _›⟩

/-- The primary mapping, family by family. -/
theorem encode_of_decodeOpCode (h : decodeOpCode (opCode w) = some i) : i.encode = w := by
  simp only [decodeOpCode, opCode_set] at h
  split at h <;> rename_i hset
  case h_1 => exact encode_of_decodeFamily0 hset h
  case h_8 => exact encode_of_decodeFamily8 hset h
  case h_9 => exact encode_of_decodeFamily9 hset h
  case h_13 => exact encode_of_decodeFamilyE hset h
  case h_14 => exact encode_of_decodeFamilyF hset h
  all_goals cases h
  case h_2 | h_3 | h_10 => exact encodeA_eq_iff.2 ⟨hset, rfl⟩
  case h_12 => exact encodeXYN_eq_iff.2 ⟨hset, rfl, rfl, rfl⟩
  all_goals exact encodeXI_eq_iff.2 ⟨hset, rfl, rfl⟩

/-- The words that decode are exactly the encodings. -/
theorem decodeWord_eq_ok_iff : decodeWord w = .ok i ↔ i.encode = w := by
  constructor
  · exact fun h => encode_of_decodeOpCode (decodeWord_eq_ok_iff_decodeOpCode.1 h)
  · rintro rfl
    exact decodeWord_encode i

end

/-- Settles O2: a word that decodes has the fields its instruction is encoded from. -/
theorem decodeThenEncode : Obligations.DecodeThenEncode := fun _ _ => decodeWord_eq_ok_iff.1

/-- Settles O6: the decoder evaluates on each of the thirteen words. -/
theorem sampleWordsDecode : Obligations.SampleWordsDecode := by
  unfold Obligations.SampleWordsDecode
  decide

/-! ## The rows of the opcode map -/

/-- Columns "mask" and "match" of an instruction's row (spec/30_encoding.md R74). -/
def Instr.row (i : Instr) : Word × Word :=
  (i.rowMask, i.rowPattern)

theorem selectsRow_iff {w : Word} {row : Word × Word} : selectsRow w row = true ↔ w &&& row.1 = row.2 :=
  beq_iff_eq

/-- Two rows that one word selects agree in every bit both of them fix. -/
theorem and_masks_of_selectsRow {w : Word} {r q : Word × Word} (hr : selectsRow w r = true) (hq : selectsRow w q = true) :
    r.2 &&& q.1 = q.2 &&& r.1 := by
  rw [← selectsRow_iff.1 hr, ← selectsRow_iff.1 hq, BitVec.and_assoc, BitVec.and_comm r.1, BitVec.and_assoc]

/-- Any two rows differ in a bit that both of them fix. -/
theorem opcodeRows_pairwise : opcodeRows.Pairwise fun r q => r.2 &&& q.1 ≠ q.2 &&& r.1 := by decide

/-- An instruction's row is one of the thirty, and its encoding selects it. -/
theorem row_statement (i : Instr) : Laws.Row.Statement i := by
  cases i
  exacts [Laws.Row.cls, Laws.Row.ret, Laws.Row.jp _, Laws.Row.call _, Laws.Row.seImm _ _, Laws.Row.sneImm _ _,
    Laws.Row.ldImm _ _, Laws.Row.addImm _ _, Laws.Row.ldReg _ _, Laws.Row.orReg _ _, Laws.Row.andReg _ _,
    Laws.Row.xorReg _ _, Laws.Row.addReg _ _, Laws.Row.subReg _ _, Laws.Row.shrReg _ _, Laws.Row.subnReg _ _,
    Laws.Row.sneReg _ _, Laws.Row.ldI _, Laws.Row.rnd _ _, Laws.Row.drw _ _ _, Laws.Row.skp _, Laws.Row.sknp _,
    Laws.Row.ldVxDt _, Laws.Row.ldVxK _, Laws.Row.ldDtVx _, Laws.Row.snd _, Laws.Row.addI _, Laws.Row.ldF _,
    Laws.Row.bcd _, Laws.Row.ldRegs _]

theorem row_mem_opcodeRows (i : Instr) : i.row ∈ opcodeRows :=
  (row_statement i).2

theorem selectsRow_encode (i : Instr) : selectsRow i.encode i.row = true :=
  selectsRow_iff.2 (row_statement i).1

/-! ## A word that selects a row is an encoding

By format class: a word with the bits the row fixes is the encoding, in that class, of the fields it has. -/

section

variable {w : Word} (set n : Nibble) (nn : Byte)

theorem encodeA_of_row (h : w &&& 0xF000 = encodeA set 0) : encodeA set (nnnField w) = w := by
  rw [← encodeA_fields w, Laws.Row.rowA, encodeA_eq_iff, setField_encodeA] at h
  obtain ⟨hset, -⟩ := h
  exact encodeA_eq_iff.2 ⟨hset.symm, rfl⟩

theorem encodeXI_of_row (h : w &&& 0xF000 = encodeXI set 0 0) : encodeXI set (xField w) (nnField w) = w := by
  rw [← encodeXI_fields w, Laws.Row.rowXI, encodeXI_eq_iff, setField_encodeXI] at h
  obtain ⟨hset, -⟩ := h
  exact encodeXI_eq_iff.2 ⟨hset.symm, rfl, rfl⟩

theorem encodeXM_of_row (h : w &&& 0xF0FF = encodeXI set 0 nn) : encodeXI set (xField w) nn = w := by
  rw [← encodeXI_fields w, Laws.Row.rowXM, encodeXI_eq_iff, setField_encodeXI, nnField_encodeXI] at h
  obtain ⟨hset, -, hnn⟩ := h
  exact encodeXI_eq_iff.2 ⟨hset.symm, rfl, hnn.symm⟩

theorem encodeXY_of_row (h : w &&& 0xF00F = encodeXYN set 0 0 n) : encodeXYN set (xField w) (yField w) n = w := by
  rw [← encodeXYN_fields w, Laws.Row.rowXY, encodeXYN_eq_iff, setField_encodeXYN, nField_encodeXYN] at h
  obtain ⟨hset, -, -, hn⟩ := h
  exact encodeXYN_eq_iff.2 ⟨hset.symm, rfl, rfl, hn.symm⟩

theorem encodeXYN_of_row (h : w &&& 0xF000 = encodeXYN set 0 0 0) :
    encodeXYN set (xField w) (yField w) (nField w) = w := by
  rw [← encodeXYN_fields w, Laws.Row.rowXYN, encodeXYN_eq_iff, setField_encodeXYN] at h
  obtain ⟨hset, -⟩ := h
  exact encodeXYN_eq_iff.2 ⟨hset.symm, rfl, rfl, rfl⟩

theorem eq_of_fixedRow {p : Word} (h : w &&& 0xFFFF = p) : p = w :=
  h.symm.trans BitVec.and_allOnes

end

/-- One instruction of each row, with the fields of a word as its operands. -/
def rowInstrs (w : Word) : List Instr :=
  [.cls, .ret, .jp (nnnField w), .call (nnnField w), .seImm (xField w) (nnField w),
   .sneImm (xField w) (nnField w), .ldImm (xField w) (nnField w), .addImm (xField w) (nnField w),
   .ldReg (xField w) (yField w), .orReg (xField w) (yField w), .andReg (xField w) (yField w),
   .xorReg (xField w) (yField w), .addReg (xField w) (yField w), .subReg (xField w) (yField w),
   .shrReg (xField w) (yField w), .subnReg (xField w) (yField w), .sneReg (xField w) (yField w),
   .ldI (nnnField w), .rnd (xField w) (nnField w), .drw (xField w) (yField w) (nField w),
   .skp (xField w), .sknp (xField w), .ldVxDt (xField w), .ldVxK (xField w), .ldDtVx (xField w),
   .snd (xField w), .addI (xField w), .ldF (xField w), .bcd (xField w), .ldRegs (xField w)]

theorem map_row_rowInstrs (w : Word) : (rowInstrs w).map Instr.row = opcodeRows := rfl

/-- A word that selects the row of one of them is its encoding. -/
theorem encode_of_mem_rowInstrs (w : Word) : ∀ i ∈ rowInstrs w, w &&& i.rowMask = i.rowPattern → i.encode = w := by
  simp only [rowInstrs, List.forall_mem_cons]
  exact ⟨eq_of_fixedRow, eq_of_fixedRow, encodeA_of_row 0x1, encodeA_of_row 0x2, encodeXI_of_row 0x3, encodeXI_of_row 0x4,
    encodeXI_of_row 0x6, encodeXI_of_row 0x7, encodeXY_of_row 0x8 0, encodeXY_of_row 0x8 1, encodeXY_of_row 0x8 2,
    encodeXY_of_row 0x8 3, encodeXY_of_row 0x8 4, encodeXY_of_row 0x8 5, encodeXY_of_row 0x8 6, encodeXY_of_row 0x8 7,
    encodeXY_of_row 0x9 0, encodeA_of_row 0xA, encodeXI_of_row 0xC, encodeXYN_of_row 0xD, encodeXM_of_row 0xE 0x9E,
    encodeXM_of_row 0xE 0xA1, encodeXM_of_row 0xF 0x07, encodeXM_of_row 0xF 0x0A, encodeXM_of_row 0xF 0x15,
    encodeXM_of_row 0xF 0x18, encodeXM_of_row 0xF 0x1E, encodeXM_of_row 0xF 0x29, encodeXM_of_row 0xF 0x33,
    encodeXM_of_row 0xF 0x65, List.forall_mem_nil _⟩

/-- The words that select a row are exactly the encodings. -/
theorem exists_encode_iff_selectsRow {w : Word} :
    (∃ i : Instr, i.encode = w) ↔ ∃ row ∈ opcodeRows, selectsRow w row = true := by
  constructor
  · rintro ⟨i, rfl⟩
    exact ⟨i.row, row_mem_opcodeRows i, selectsRow_encode i⟩
  · rintro ⟨row, hrow, h⟩
    rw [← map_row_rowInstrs w] at hrow
    obtain ⟨i, hi, rfl⟩ := List.mem_map.1 hrow
    exact ⟨i, encode_of_mem_rowInstrs w i hi (selectsRow_iff.1 h)⟩

/-- Settles O4: the rows are told apart by the bits they fix, and both the words that decode and those that select a row are
the encodings. -/
theorem decoderFollowsOpcodeMap : Obligations.DecoderFollowsOpcodeMap := by
  refine ⟨⟨rfl, opcodeRows_pairwise.imp fun hne w ⟨hr, hq⟩ => hne (and_masks_of_selectsRow hr hq)⟩, fun w => ⟨?_, ?_⟩⟩
  · intro i hi
    obtain rfl := decodeWord_eq_ok_iff.1 hi
    exact ⟨row_mem_opcodeRows i, selectsRow_encode i⟩
  · intro hrow
    obtain ⟨i, hi⟩ := exists_encode_iff_selectsRow.2 hrow
    exact ⟨i, decodeWord_eq_ok_iff.2 hi⟩

/-! ## A word that selects no row -/

/-- The sub-selector of R201 by the number of the family. -/
theorem subSelector_eq (w : Word) :
    subSelector w =
      if (setField w).toNat = 0x0 ∨ (setField w).toNat = 0xE ∨ (setField w).toNat = 0xF then some (nnField w)
      else if (setField w).toNat = 0x8 ∨ (setField w).toNat = 0x9 then some ((nField w).setWidth 8)
      else none := by
  unfold subSelector
  split
  case h_6 hzero height hnine hE hF =>
    have hne : ∀ k : Nibble, setField w ≠ k → (setField w).toNat ≠ k.toNat := fun _ => mt BitVec.eq_of_toNat_eq
    rw [if_neg, if_neg]
    · exact not_or.2 ⟨hne 0x8 height, hne 0x9 hnine⟩
    · exact not_or.2 ⟨hne 0x0 hzero, not_or.2 ⟨hne 0xE hE, hne 0xF hF⟩⟩
  all_goals simp [‹setField w = _›]

/-- A word that decoded would be an encoding and select its instruction's row (spec/30_encoding.md R77). -/
theorem decodeWord_of_no_row {w : Word} (h : ∀ row ∈ opcodeRows, selectsRow w row = false) :
    decodeWord w = .error (.unimplemented (setField w) (subSelector w)) := by
  unfold decodeWord
  cases hi : decodeOpCode (opCode w) with
  | none => rfl
  | some i =>
    obtain ⟨row, hrow, hsel⟩ := exists_encode_iff_selectsRow.1 ⟨i, encode_of_decodeOpCode hi⟩
    exact absurd hsel (by simp [h row hrow])

/-- Settles O5: no row means no instruction, and the error names `Set` and the sub-selector. -/
theorem unimplementedWordsAreRejectedByName : Obligations.UnimplementedWordsAreRejectedByName := by
  intro w h
  rw [decodeWord_of_no_row h, subSelector_eq]

end Sys2Proof
end

section
/-! SUPPORT. What `ExecuteOne` does with a word that is no instruction (spec/30_encoding.md R77, spec/60_exceptions.md R201). -/

namespace Sys2Proof.Machine

/-- A fetched word that does not decode is latched by name. -/
theorem executeOne_of_not_decoded {s : State} {w : Word} {e : DecodeError} (hfault : s.fault = none)
    (hfetch : s.fetch = some w) (hdecode : decodeWord w = .error e) :
    executeOne s = .next (s.setFault (some (s.faultRecord w .unimplementedOpcode 0))) := by
  simp only [executeOne, hfault, hfetch, hdecode, State.raise_eq]

/-- Settles O9: the fetch reads the word at `PC`, whatever the host's coming moves, and no row means no instruction. -/
theorem unimplementedWordLatchesFault : Obligations.UnimplementedWordLatchesFault := by
  intro s w hfault hpc hw hrow
  have hword : wordOfBytes (s.byteAt s.pc.toNat) (s.byteAt (s.pc.toNat + 1)) = w :=
    BitVec.eq_of_toNat_eq (by rw [toNat_wordOfBytes, hw])
  refine State.stepLatches_of_executeOne fun ms => ?_
  have hfetch : (s.setScript ms).fetch = some w := by
    rw [State.fetch_eq, State.setScript_pc, if_pos hpc, State.setScript_byteAt, State.setScript_byteAt, hword]
  rw [executeOne_of_not_decoded (s := s.setScript ms) hfault hfetch (decodeWord_of_no_row hrow), State.faultRecord,
    if_pos rfl, subSelector_eq]
  rfl

end Sys2Proof.Machine
end

section
/-! SUPPORT. A step that runs `ExecuteOne`, what `ExecuteOne` does with the bytes at `PC`, and what is left to a faulted core
(spec/40_execute_one.md R100 to R104, spec/47_host_operations.md R182, R193, spec/60_exceptions.md R208, R211). -/

namespace Sys2Proof.Machine

/-! ## What `ExecuteOne` does with the bytes at `PC` -/

section

variable {s : State}

/-- A fetched word that decodes is executed. -/
theorem executeOne_of_decoded {w : Word} {i : Instr} (hfault : s.fault = none) (hfetch : s.fetch = some w)
    (hdecode : decodeWord w = .ok i) : executeOne s = exec i s := by
  simp only [executeOne, hfault, hfetch, hdecode]

/-- A fetch that finds no word is latched, with `PC` as the bad address and 0 for the word (spec/60_exceptions.md R200). -/
theorem executeOne_of_not_fetched (hfault : s.fault = none) (hfetch : s.fetch = none) :
    executeOne s = .next (s.setFault (some (s.faultRecord 0 .addressOutOfRange s.pc))) := by
  simp only [executeOne, hfault, hfetch, State.raise_eq]

/-- A faulted core stays as it is (spec/40_execute_one.md R104). -/
theorem executeOne_of_faulted {f : FaultRecord} (hfault : s.fault = some f) : executeOne s = .next s := by
  simp only [executeOne, hfault]

/-- Two bytes decode as the word they make. -/
theorem decodeBytes_pair_eq_ok_iff {hi lo : Byte} {i : Instr} :
    decodeBytes [hi, lo] = .ok (i, []) ↔ decodeWord (wordOfBytes hi lo) = .ok i := by
  simp only [decodeBytes]
  cases decodeWord (wordOfBytes hi lo) <;> simp

/-! ## The steps that run `ExecuteOne` -/

/-- A host with no moves listed single-steps (spec/47_host_operations.md R193). -/
theorem step_of_idle (hscript : s.script = []) (hupdate : s.update = none) : step s = executeOne s := by
  simp only [step, transition, hscript, hupdate]

/-- With no moves listed an `Update` in progress goes on. -/
theorem step_of_update {c : UpdateCall} (hscript : s.script = []) (hupdate : s.update = some c) :
    step s = updateAction c s := by
  simp only [step, transition, hscript, hupdate]

/-- The move `ExecuteOne` is taken off the list and made, outside an `Update`. -/
theorem step_of_executeOne_move {rest : List HostMove} (hscript : s.script = .executeOne :: rest)
    (hupdate : s.update = none) : step s = executeOne (s.setScript rest) := by
  simp only [step, transition, hscript, hostMove, State.unlessUpdating, State.setScript_update, hupdate]

/-- The move `wait` lets an `Update` in progress go on. -/
theorem step_of_wait_move {c : UpdateCall} {rest : List HostMove} (hscript : s.script = .wait :: rest)
    (hupdate : s.update = some c) : step s = updateAction c (s.setScript rest) := by
  simp only [step, transition, hscript, hostMove, State.setScript_update, hupdate]

/-- A due instruction is one `ExecuteOne` and the accounting of its budget tick (spec/47_host_operations.md R182). -/
theorem updateAction_of_due {c : UpdateCall} (hphase : c.phase = .instructions) (hdue : interval c.ips ≤ s.accI) :
    updateAction c s = thenNext (executeOne s) (fun t => t.afterTick (interval c.ips)) := by
  simp only [updateAction, hphase, if_pos hdue]

end

/-- Settles O7: the fetch reads the two bytes, which decode as one word, whatever the host's coming moves, and each of the four
steps runs `ExecuteOne`. -/
theorem stepExecutesDecodedInstruction : Obligations.StepExecutesDecodedInstruction := by
  intro s i hpc hdecode hfault
  have hone (ms : List HostMove) : executeOne (s.setScript ms) = exec i (s.setScript ms) :=
    executeOne_of_decoded hfault ((s.setScript ms).fetch_eq.trans (if_pos hpc)) (decodeBytes_pair_eq_ok_iff.1 hdecode)
  refine ⟨fun hs hu => ?_, fun rest hs hu => ?_, fun c hs hu hp hd => ?_, fun c rest hs hu hp hd => ?_⟩
  · exact (step_of_idle hs hu).trans (hone s.script)
  · exact (step_of_executeOne_move hs hu).trans (hone rest)
  · rw [step_of_update hs hu, updateAction_of_due hp hd, show executeOne s = exec i s from hone s.script]
  · rw [step_of_wait_move hs hu, updateAction_of_due (s := s.setScript rest) hp hd, hone]

/-- Settles O8: the bounds check of the fetch fails, whatever the host's coming moves. -/
theorem fetchOutsideMemoryLatchesFault : Obligations.FetchOutsideMemoryLatchesFault := by
  intro s hfault hpc
  exact State.stepLatches_of_executeOne fun ms =>
    executeOne_of_not_fetched hfault ((s.setScript ms).fetch_eq.trans (if_neg (not_le.2 hpc)))

/-! ## A faulted core -/

/-- A move of the host other than `Reset` and `LoadRom` reaches no further than the key latch of a faulted core. -/
theorem hostMove_of_faulted {m : HostMove} {s t : State} {f : FaultRecord} (hfault : s.fault = some f)
    (hupdate : s.update = none) (hreset : m ≠ .reset) (hload : ∀ bytes, m ≠ .loadRom bytes) (h : hostMove m s = .next t) :
    ∃ keys, t = s.setLatch keys := by
  rcases hostMove_cases h with ⟨hm, -⟩ | ⟨bytes, hm, -⟩ | ⟨e, ips, -, -, -, rfl⟩ | ⟨-, -, hone⟩ |
    ⟨k, -, rfl⟩ | ⟨k, -, rfl⟩ | ⟨-, -, rfl⟩ | ⟨-, c, hc, -⟩
  · exact absurd hm hreset
  · exact absurd hm (hload bytes)
  · rcases s.beginUpdate_cases e ips with ⟨-, ht⟩ | ⟨hnone, -⟩
    · exact ⟨s.latch, ht⟩
    · exact nomatch hfault.symm.trans hnone
  · rw [executeOne_of_faulted hfault] at hone
    cases hone
    exact ⟨s.latch, rfl⟩
  · exact ⟨_, rfl⟩
  · exact ⟨_, rfl⟩
  · exact ⟨t.latch, rfl⟩
  · exact nomatch hupdate.symm.trans hc

/-- Every part of a state is the same as itself. -/
theorem Same.refl (p : Part) (s : State) : Same p s s := by
  cases p
  case stack | clock => exact ⟨rfl, rfl⟩
  case memory => exact fun _ => rfl
  case pixels => exact fun _ _ => rfl
  all_goals rfl

/-- Other moves to come and other keys are no change of any other part. -/
theorem State.frame_setScript_setLatch (s : State) (ms : List HostMove) (keys : List Nibble) :
    Frame [] [.latch, .script] s ((s.setScript ms).setLatch keys) := by
  refine ⟨fun _ _ => rfl, fun p hp => ?_⟩
  have hself := Same.refl p s
  cases p
  case latch | script => simp at hp
  all_goals exact hself

/-- Settles O10: single-stepping does nothing, and a move of the host reaches the key latch at most. -/
theorem faultedCoreIsInert : Obligations.FaultedCoreIsInert := by
  intro s t hfault hupdate h hreset hload
  obtain ⟨f, hf⟩ := Option.ne_none_iff_exists'.1 hfault
  have ht : ∃ ms keys, t = (s.setScript ms).setLatch keys := by
    rcases step_cases h with ⟨m, rest, hs, hmove⟩ | ⟨-, c, hc, -⟩ | ⟨-, -, hone⟩
    · rw [hs] at hreset hload
      exact ⟨rest, hostMove_of_faulted hf hupdate (fun hm => hreset (congrArg some hm))
        (fun bytes hm => hload bytes (congrArg some hm)) hmove⟩
    · exact nomatch hupdate.symm.trans hc
    · rw [executeOne_of_faulted hf] at hone
      cases hone
      exact ⟨s.script, s.latch, rfl⟩
  obtain ⟨ms, keys, rfl⟩ := ht
  exact ⟨rfl, s.frame_setScript_setLatch ms keys⟩

end Sys2Proof.Machine
end

section
/-! SUPPORT. `CALL` and `RET` where the stack has room and a valid entry (spec/41_flow.md R110, R112, spec/10_state.md R25). -/

namespace Sys2Proof.Machine

variable {s : State}

/-- `2NNN` with room: the return address into the slot at `SP`, `SP` one more, `PC` at the target (spec/41_flow.md R112). -/
theorem exec_call_of_room (nnn : Addr12) (h : s.sp ≠ s.cfg.stackDepth) :
    exec (.call nnn) s = .next ((s.setStack (s.stack.set s.sp (s.pc + 2)) (s.sp + 1)).setPc (target nnn)) := by
  simp only [exec, execCall, State.push_eq, State.advance_sp, State.advance_cfg, h, if_false]
  rfl

/-- `00EE` with a valid entry: `PC` at the last valid slot, `SP` one less (spec/41_flow.md R110). -/
theorem exec_ret_of_valid (h : s.sp ≠ 0) :
    exec .ret s = .next ((s.setStack s.stack (s.sp - 1)).setPc (s.slot (s.sp - 1))) := by
  simp only [exec, execRet, State.pop_eq, State.advance_sp, h, if_false]
  rfl

/-- A slot of the list that was written reads back. -/
theorem State.slot_setStack_set_same {k : Nat} (hk : k < s.stack.length) (w : Word) (p : Nat) :
    (s.setStack (s.stack.set k w) p).slot k = w := by
  simp [State.slot, hk]

/-- The other slots keep their values. -/
theorem State.slot_setStack_set_of_ne {j k : Nat} (hj : j ≠ k) (w : Word) (p : Nat) :
    (s.setStack (s.stack.set k w) p).slot j = s.slot j := by
  simp [State.slot, List.getElem?_set_ne hj.symm]

/-- Beside `PC` an instruction that moves `SP` touches the stack only. -/
theorem State.frame_setStack_setPc (s : State) (st : List Word) (p : Nat) (w : Word) :
    Frame [] [.stack] s ((s.setStack st p).setPc w) := by
  refine ⟨fun _ _ => rfl, fun q hq => ?_⟩
  have hself := Same.refl q s
  cases q
  case stack => simp at hq
  all_goals exact hself

/-- Settles O27: the slot `CALL` writes is the one `RET` reads, and it lies above the valid ones. -/
theorem callThenReturnResumesAfterCall : Obligations.CallThenReturnResumesAfterCall := by
  intro nnn s hlen hroom
  refine ⟨_, _, exec_call_of_room nnn hroom.ne, exec_ret_of_valid (Nat.succ_ne_zero s.sp), ?_, rfl, fun j hj => ?_, ?_⟩
  · exact State.slot_setStack_set_same (hlen ▸ hroom) (s.pc + 2) (s.sp + 1)
  · exact State.slot_setStack_set_of_ne hj.ne (s.pc + 2) s.sp
  · exact s.frame_setStack_setPc (s.stack.set s.sp (s.pc + 2)) s.sp _

end Sys2Proof.Machine
end

section
/-! SUPPORT. Control transfer, instruction by instruction: each is one new value of `PC`, beside it at most a move of `SP`, or a
latched fault (spec/41_flow.md R110 to R115, spec/60_exceptions.md R202, R203). -/

namespace Sys2Proof.Machine

variable (s : State)

/-! ## Jump -/

/-- No frame speaks of `PC`, so a new `PC` is no change of any part. -/
theorem State.frame_setPc (w : Word) : Frame [] [] s (s.setPc w) :=
  ⟨fun _ _ => rfl, fun p _ => Same.refl p s⟩

/-- `1NNN`: the fetch's move of `PC` is overwritten (spec/41_flow.md R111). -/
theorem exec_jp (nnn : Addr12) : exec (.jp nnn) s = .next (s.setPc (target nnn)) := rfl

/-- Settles O24: `PC` is the target and nothing else changes; at 0xFFF the second byte of the word is outside memory. -/
theorem jumpResult : Obligations.JumpResult := by
  intro nnn s
  refine ⟨_, exec_jp s nnn, toNat_target nnn, s.frame_setPc _, ?_⟩
  rintro rfl
  have hout : ¬ (target 0xFFF).toNat ≤ 0xFFE := by decide
  exact (s.setPc (target 0xFFF)).fetch_eq.trans (if_neg hout)

/-! ## Call and return -/

/-- A fault of the call stack, of which the record names the instruction and no sub-selector, is the latched state of the
statements (spec/60_exceptions.md R200, R206). -/
theorem State.raise_encode (i : Instr) {cause : Cause} (hcause : cause ≠ .unimplementedOpcode) (info : Word) :
    s.raise i.encode cause info = .next (s.latched i cause info) := by
  simp only [State.raise, State.faultRecord, if_neg hcause]
  rfl

/-- `2NNN` at capacity (spec/60_exceptions.md R202). -/
theorem exec_call_of_full (nnn : Addr12) (h : s.sp = s.cfg.stackDepth) :
    exec (.call nnn) s = .next (s.latched (.call nnn) .stackOverflow 0) := by
  simp only [exec, execCall, State.push_eq, State.advance_sp, State.advance_cfg, h, if_true]
  exact s.raise_encode (.call nnn) (by decide) 0

/-- `00EE` on an empty stack (spec/60_exceptions.md R203). -/
theorem exec_ret_of_empty (h : s.sp = 0) : exec .ret s = .next (s.latched .ret .stackUnderflow 0) := by
  simp only [exec, execRet, State.pop_eq, State.advance_sp, h, if_true]
  exact s.raise_encode .ret (by decide) 0

/-- Settles O25: with room the return address goes into the slot at `SP`, at capacity the overflow is latched. -/
theorem callResult : Obligations.CallResult := by
  intro nnn s
  refine ⟨fun hroom => ?_, fun hroom hlen => ?_, exec_call_of_full s nnn⟩
  · exact ⟨_, exec_call_of_room nnn hroom, rfl, rfl, toNat_target nnn, s.frame_setStack_setPc _ _ _⟩
  · exact ⟨_, exec_call_of_room nnn hroom.ne, State.slot_setStack_set_same (hlen ▸ hroom) _ (s.sp + 1),
      fun j hj => State.slot_setStack_set_of_ne hj _ (s.sp + 1), rfl, toNat_target nnn, s.frame_setStack_setPc _ _ _⟩

/-- Settles O26: with a valid entry `PC` is the last one, on an empty stack the underflow is latched. -/
theorem returnResult : Obligations.ReturnResult := by
  intro s
  refine ⟨fun hvalid => ?_, exec_ret_of_empty s⟩
  exact ⟨_, exec_ret_of_valid hvalid, rfl, rfl, rfl, s.frame_setStack_setPc _ _ _⟩

/-! ## Skips -/

/-- A skip is one new `PC`: over the next instruction or onto it (spec/40_execute_one.md R107). -/
theorem State.advance_skipIf (b : Bool) : s.advance.skipIf b = s.setPc (if b then s.pc + 4 else s.pc + 2) := by
  cases b
  · rfl
  · exact congrArg s.setPc (BitVec.add_assoc s.pc 2 2)

theorem exec_seImm (x : Nibble) (nn : Byte) :
    exec (.seImm x nn) s = .next (s.setPc (if s.reg x = nn then s.pc + 4 else s.pc + 2)) := by
  simp only [exec, execSeImm, State.advance_skipIf, beq_iff_eq]

theorem exec_sneImm (x : Nibble) (nn : Byte) :
    exec (.sneImm x nn) s = .next (s.setPc (if s.reg x ≠ nn then s.pc + 4 else s.pc + 2)) := by
  simp only [exec, execSneImm, State.advance_skipIf, bne_iff_ne]

theorem exec_sneReg (x y : Nibble) :
    exec (.sneReg x y) s = .next (s.setPc (if s.reg x ≠ s.reg y then s.pc + 4 else s.pc + 2)) := by
  simp only [exec, execSneReg, State.advance_skipIf, bne_iff_ne]

/-- Family 0x9 has the one row `N = 0` (spec/30_encoding.md R76). -/
theorem decodeWord_family9_of_ne_zero (x y : Nibble) {n : Nibble} (hn : n ≠ 0) (i : Instr) :
    decodeWord (encodeXYN 0x9 x y n) ≠ .ok i := by
  intro h
  have hdecode : decodeFamily9 (opCode (encodeXYN 0x9 x y n)) = some i := by
    simpa [decodeOpCode] using decodeWord_eq_ok_iff_decodeOpCode.1 h
  simp only [decodeFamily9, opCode_n, nField_encodeXYN] at hdecode
  split at hdecode
  · exact hn rfl
  · cases hdecode

/-- Settles O28: each skip is a new `PC` and nothing else, a register never differs from itself, and family 0x9 has one row. -/
theorem skipsOnRegisters : Obligations.SkipsOnRegisters := by
  refine ⟨fun x nn s => ?_, fun x nn s => ?_, fun x y s => ?_, fun x y n hn => decodeWord_family9_of_ne_zero x y hn⟩
  · exact ⟨_, exec_seImm s x nn, rfl, s.frame_setPc _⟩
  · exact ⟨_, exec_sneImm s x nn, rfl, s.frame_setPc _⟩
  · refine ⟨_, exec_sneReg s x y, rfl, ?_, s.frame_setPc _⟩
    rintro rfl
    exact if_neg (not_not_intro rfl)

end Sys2Proof.Machine
end

section
/-! SUPPORT. Immediate loads, add and random byte: each is the fetch's move of `PC` and one destination (spec/42_load_imm.md R120 to
R123). -/

namespace Sys2Proof.Machine

variable (s : State)

/-! ## One destination beside `PC` -/

theorem State.reg_setReg_same (x : Nibble) (b : Byte) : (s.setReg x b).reg x = b := by
  rw [State.reg_setReg, if_pos rfl]

theorem State.frame_advance_setReg (x : Nibble) (b : Byte) : Frame [x] [] s (s.advance.setReg x b) := by
  refine ⟨fun r hr => ?_, fun p _ => Same.refl p s⟩
  rw [State.reg_setReg, if_neg (List.ne_of_not_mem_cons hr), State.advance_reg]

theorem State.frame_advance_setI (w : Word) : Frame [] [.index] s (s.advance.setI w) := by
  refine ⟨fun _ _ => rfl, fun p hp => ?_⟩
  have hself := Same.refl p s
  cases p
  case index => simp at hp
  all_goals exact hself

/-- Counting a draw adds the count to what a change does not keep. -/
theorem Frame.nextDraw {regs : List Nibble} {s t : State} (h : Frame regs [] s t) : Frame regs [.draws] s t.nextDraw := by
  refine ⟨h.1, fun p hp => ?_⟩
  have hsame := h.2 p List.not_mem_nil
  cases p
  case draws => simp at hp
  all_goals exact hsame

/-! ## Loads and add -/

theorem exec_ldImm (x : Nibble) (nn : Byte) : exec (.ldImm x nn) s = .next (s.advance.setReg x nn) := rfl

theorem exec_addImm (x : Nibble) (nn : Byte) :
    exec (.addImm x nn) s = .next (s.advance.setReg x (sumByte (s.reg x) nn)) := rfl

theorem exec_ldI (nnn : Addr12) : exec (.ldI nnn) s = .next (s.advance.setI (target nnn)) := rfl

/-- The wrapping add of `ADD` (spec/42_load_imm.md R121, spec/43_alu.md R134). -/
theorem toNat_sumByte (a b : Byte) : (sumByte a b).toNat = (a.toNat + b.toNat) % 256 :=
  (BitVec.toNat_ofNat _ 8).trans (Nat.mod_mod _ 256)

/-- Settles O29: each instruction is one write after the fetch's move of `PC`, and its frame lists no flag. -/
theorem immediateLoadResults : Obligations.ImmediateLoadResults := by
  refine ⟨fun x nn s => ?_, fun x nn s => ?_, fun nnn s => ?_⟩
  · exact ⟨_, exec_ldImm s x nn, rfl, s.advance.reg_setReg_same x nn, s.frame_advance_setReg x nn⟩
  · refine ⟨_, exec_addImm s x nn, rfl, ?_, s.frame_advance_setReg x _⟩
    rw [State.reg_setReg_same, toNat_sumByte]
  · exact ⟨_, exec_ldI s nnn, rfl, toNat_target nnn, s.frame_advance_setI _⟩

/-! ## Random byte -/

theorem exec_rnd (x : Nibble) (nn : Byte) :
    exec (.rnd x nn) s = .next (rndWith (Config.randomByte s.draws) x nn s).nextDraw := rfl

theorem reg_rndWith_nextDraw (r : Byte) (x : Nibble) (nn : Byte) : (rndWith r x nn s).nextDraw.reg x = r &&& nn :=
  s.advance.reg_setReg_same x (r &&& nn)

/-- A byte under the mask has no bit outside it. -/
theorem and_and_not_mask (r nn : Byte) : r &&& nn &&& ~~~nn = 0 := by
  rw [BitVec.and_assoc, BitVec.and_not_self]
  exact BitVec.and_zero

/-- The mask keeps a byte that has no bit outside it. -/
theorem and_mask_of_within {v nn : Byte} (h : v &&& ~~~nn = 0) : v &&& nn = v := by
  calc v &&& nn = v &&& nn ||| v &&& ~~~nn := by rw [h]; exact BitVec.or_zero.symm
    _ = v &&& (nn ||| ~~~nn) := BitVec.and_or_distrib_left.symm
    _ = v := by rw [BitVec.or_not_self, BitVec.and_allOnes]

/-- Settles O30: the byte drawn lands in `V[X]` under the mask, and a byte within the mask is reached by drawing it. -/
theorem randomResult : Obligations.RandomResult := by
  refine fun x nn s => ⟨exec_rnd s x nn, fun r => ?_, fun v hv => ⟨v, ?_⟩⟩
  · refine ⟨reg_rndWith_nextDraw s r x nn, ?_, rfl, rfl, (s.frame_advance_setReg x (r &&& nn)).nextDraw⟩
    rw [reg_rndWith_nextDraw, and_and_not_mask]
  · rw [reg_rndWith_nextDraw, and_mask_of_within hv]

end Sys2Proof.Machine
end

section
/-! SUPPORT. The register-register family: operations 0 to 3 write one register after the fetch's move of `PC`, operations 4 to 7 a
result and then the flag (spec/43_alu.md R130 to R138). -/

namespace Sys2Proof.Machine

variable (s : State)

/-! ## Without a flag -/

/-- What the statements ask of an instruction whose only destination is `V[X]`. -/
theorem State.result_advance_setReg (x : Nibble) (b : Byte) :
    ∃ t, (.next (s.advance.setReg x b) : Result) = .next t ∧ t.pc = s.pc + 2 ∧ t.reg x = b ∧ Frame [x] [] s t :=
  ⟨_, rfl, rfl, s.advance.reg_setReg_same x b, s.frame_advance_setReg x b⟩

theorem exec_ldReg (x y : Nibble) : exec (.ldReg x y) s = .next (s.advance.setReg x (s.reg y)) := rfl

theorem exec_orReg (x y : Nibble) : exec (.orReg x y) s = .next (s.advance.setReg x (s.reg x ||| s.reg y)) := rfl

theorem exec_andReg (x y : Nibble) : exec (.andReg x y) s = .next (s.advance.setReg x (s.reg x &&& s.reg y)) := rfl

theorem exec_xorReg (x y : Nibble) : exec (.xorReg x y) s = .next (s.advance.setReg x (s.reg x ^^^ s.reg y)) := rfl

/-- Settles O31: each instruction is one write after the fetch's move of `PC`, and its frame lists no flag. -/
theorem bitwiseResults : Obligations.BitwiseResults := by
  intro x y s
  rw [exec_ldReg, exec_orReg, exec_andReg, exec_xorReg]
  exact ⟨s.result_advance_setReg x _, s.result_advance_setReg x _, s.result_advance_setReg x _,
    s.result_advance_setReg x _⟩

/-! ## With a flag -/

/-- The flag is written last, so it stays also when `X = 0xF` (spec/43_alu.md R138 d). -/
theorem State.reg_setRegAndFlag_flag (x : Nibble) (b : Byte) (f : Bool) :
    (s.setRegAndFlag x b f).reg 0xF = if f then 1 else 0 := by
  rw [State.reg_setRegAndFlag, if_pos (show 0xF = vf from rfl), flagByte_eq]

theorem State.reg_setRegAndFlag_result {x : Nibble} (hx : x ≠ 0xF) (b : Byte) (f : Bool) :
    (s.setRegAndFlag x b f).reg x = b := by
  rw [State.reg_setRegAndFlag, if_neg (show x ≠ vf from hx), if_pos rfl]

theorem State.frame_advance_setRegAndFlag (x : Nibble) (b : Byte) (f : Bool) :
    Frame [x, 0xF] [] s (s.advance.setRegAndFlag x b f) := by
  refine ⟨fun r hr => ?_, fun p _ => Same.refl p s⟩
  have hx : r ≠ x := List.ne_of_not_mem_cons hr
  have hvf : r ≠ vf := List.ne_of_not_mem_cons (List.not_mem_of_not_mem_cons hr)
  rw [State.reg_setRegAndFlag, if_neg hvf, if_neg hx, State.advance_reg]

/-! ## Sum and carry -/

theorem exec_addReg (x y : Nibble) : exec (.addReg x y) s =
    .next (s.advance.setRegAndFlag x (sumByte (s.reg x) (s.reg y)) (carryOut (s.reg x) (s.reg y))) := rfl

/-- Settles O32: the wrapped sum goes to `V[X]`, then the carry to `VF`. -/
theorem addWithCarryResult : Obligations.AddWithCarryResult := by
  intro x y s
  refine ⟨_, exec_addReg s x y, rfl, ?_, fun hx => ?_, s.frame_advance_setRegAndFlag x _ _⟩
  · simp only [State.reg_setRegAndFlag_flag, carryOut, decide_eq_true_eq]
  · rw [State.reg_setRegAndFlag_result _ hx, toNat_sumByte]

/-! ## Difference and comparison -/

theorem exec_subReg (x y : Nibble) : exec (.subReg x y) s =
    .next (s.advance.setRegAndFlag x (differenceByte (s.reg x) (s.reg y)) (greater (s.reg x) (s.reg y))) := rfl

theorem exec_subnReg (x y : Nibble) : exec (.subnReg x y) s =
    .next (s.advance.setRegAndFlag x (differenceByte (s.reg y) (s.reg x)) (greater (s.reg y) (s.reg x))) := rfl

/-- The wrapping difference of `SUB` and `SUBN` (spec/43_alu.md R135, R137). -/
theorem toNat_differenceByte (a b : Byte) : ((differenceByte a b).toNat : Int) = ((a.toNat : Int) - b.toNat) % 256 := by
  have hnat : (differenceByte a b).toNat = (a.toNat + 256 - b.toNat) % 256 :=
    (BitVec.toNat_ofNat _ 8).trans (Nat.mod_mod _ 256)
  have hb : b.toNat < 256 := b.isLt
  omega

/-- What both subtractions do with their operands `a` and `b`, whichever of `V[X]` and `V[Y]` is which. -/
theorem State.result_subtraction (x : Nibble) (a b : Byte) :
    ∃ t, (.next (s.advance.setRegAndFlag x (differenceByte a b) (greater a b)) : Result) = .next t ∧ t.pc = s.pc + 2 ∧
      t.reg 0xF = (if a.toNat > b.toNat then 1 else 0) ∧
      (x ≠ 0xF → ((t.reg x).toNat : Int) = ((a.toNat : Int) - b.toNat) % 256) ∧ Frame [x, 0xF] [] s t := by
  refine ⟨_, rfl, rfl, ?_, fun hx => ?_, s.frame_advance_setRegAndFlag x _ _⟩
  · simp only [State.reg_setRegAndFlag_flag, greater, decide_eq_true_eq]
  · rw [State.reg_setRegAndFlag_result _ hx, toNat_differenceByte]

/-- Settles O33: the two instructions are one subtraction with the operands exchanged. -/
theorem subtractResults : Obligations.SubtractResults := by
  intro x y s
  rw [exec_subReg, exec_subnReg]
  exact ⟨s.result_subtraction x (s.reg x) (s.reg y), s.result_subtraction x (s.reg y) (s.reg x)⟩

/-! ## Shift right -/

theorem exec_shrReg (x y : Nibble) : exec (.shrReg x y) s =
    .next (s.advance.setRegAndFlag x (halfByte (s.shrOperand x y)) (droppedBit (s.shrOperand x y))) := rfl

/-- The shift's source is `V[X]` or `V[Y]`, as the parameter `SHR_SOURCE` says (spec/43_alu.md R136). -/
theorem State.shrOperand_eq {x y : Nibble} {src : Byte} (hvx : s.cfg.shrSource = .vx → src = s.reg x)
    (hvy : s.cfg.shrSource = .vy → src = s.reg y) : s.shrOperand x y = src := by
  unfold State.shrOperand
  cases h : s.cfg.shrSource with
  | vx => exact (hvx h).symm
  | vy => exact (hvy h).symm

/-- Half a byte is a byte, so nothing wraps. -/
theorem toNat_halfByte (a : Byte) : (halfByte a).toNat = a.toNat / 2 :=
  (BitVec.toNat_ofNat _ 8).trans (Nat.mod_eq_of_lt ((Nat.div_le_self _ 2).trans_lt a.isLt))

/-- The dropped bit is set exactly for an odd byte. -/
theorem droppedBit_iff (a : Byte) : droppedBit a = true ↔ a.toNat % 2 = 1 := by
  rw [droppedBit, BitVec.getLsbD, Nat.testBit_zero, decide_eq_true_eq]

/-- Settles O34: half of the source goes to `V[X]`, then its lowest bit to `VF`. -/
theorem shiftRightResult : Obligations.ShiftRightResult := by
  intro x y s src hvx hvy
  have hexec := exec_shrReg s x y
  rw [s.shrOperand_eq hvx hvy] at hexec
  refine ⟨_, hexec, rfl, ?_, fun hx => ?_, s.frame_advance_setRegAndFlag x _ _⟩
  · simp only [State.reg_setRegAndFlag_flag, droppedBit_iff]
    rcases Nat.mod_two_eq_zero_or_one src.toNat with h | h <;> simp [h]
  · rw [State.reg_setRegAndFlag_result _ hx, toNat_halfByte]

end Sys2Proof.Machine
end

section
/-! SUPPORT. `CLS` and `DRW`: what a repaint of the screen leaves unchanged, the blit of `DRW` in the words of the statements, two
draws in a row, and the data accesses that run past memory (spec/44_display.md R150 to R156, spec/60_exceptions.md R204). -/

namespace Sys2Proof.Machine

variable (s : State) {regs : List Nibble} {parts : List Part}

/-! ## Frames, one change after another -/

theorem Same.trans {p : Part} {s t u : State} (h : Same p s t) (h' : Same p t u) : Same p s u := by
  cases p
  case stack | clock => exact ⟨h'.1.trans h.1, h'.2.trans h.2⟩
  case memory => exact fun a => (h' a).trans (h a)
  case pixels => exact fun px py => (h' px py).trans (h px py)
  all_goals exact Eq.trans h' h

/-- What two changes in a row both leave alone stays through both. -/
theorem Frame.trans {s t u : State} (h : Frame regs parts s t) (h' : Frame regs parts t u) : Frame regs parts s u :=
  ⟨fun r hr => (h'.1 r hr).trans (h.1 r hr), fun p hp => (h.2 p hp).trans (h'.2 p hp)⟩

theorem State.frame_advance : Frame regs parts s s.advance :=
  ⟨fun _ _ => rfl, fun p _ => Same.refl p s⟩

theorem State.frame_setReg {x : Nibble} (hx : x ∈ regs) (b : Byte) : Frame regs parts s (s.setReg x b) := by
  refine ⟨fun r hr => ?_, fun p _ => Same.refl p s⟩
  rw [State.reg_setReg, if_neg (ne_of_mem_of_not_mem hx hr).symm]

theorem State.frame_setPixels (hparts : .pixels ∈ parts) (g : Grid) : Frame regs parts s (s.setPixels g) := by
  refine ⟨fun _ _ => rfl, fun p hp => ?_⟩
  have hself := Same.refl p s
  cases p
  case pixels => exact absurd hparts hp
  all_goals exact hself

theorem State.frame_emitIf (hparts : .events ∈ parts) (b : Bool) (e : Event) : Frame regs parts s (s.emitIf b e) := by
  refine ⟨fun r _ => s.emitIf_reg b e r, fun p hp => ?_⟩
  have hself := Same.refl p s
  cases b
  · exact hself
  · cases p
    case events => exact absurd hparts hp
    all_goals exact hself

/-! ## Clearing the screen -/

theorem exec_cls : exec .cls s = .next ((s.advance.setPixels Grid.blank).emitIf s.cfg.clsRefresh .refresh) := rfl

/-- Settles O35: the screen is the blank one, and a strobe is emitted under the parameter `CLS_REFRESH` only. -/
theorem clearScreenResult : Obligations.ClearScreenResult := by
  intro s
  refine ⟨_, exec_cls s, State.emitIf_pc _ _ _, fun px py => ?_, State.emitIf_events _ _ _, ?_⟩
  · rw [State.emitIf_pixel, State.pixel_setPixels, Grid.get_blank]
  · exact s.frame_advance.trans ((State.frame_setPixels _ (by simp) _).trans (State.frame_emitIf _ (by simp) _ _))

/-! ## Data accesses past memory -/

/-- The bounds check of the `count` bytes from `I` passes where the last of them exists. -/
theorem State.indexedOutOfRange_of_inside {count : Nat} (h : count = 0 ∨ s.i.toNat + count ≤ 0x1000) :
    s.indexedOutOfRange count = none :=
  (outOfRange_eq_none_iff _ _).2 fun k hk => by omega

/-- Where the last of them does not exist the check names the lowest bad address (spec/60_exceptions.md R204). -/
theorem State.indexedOutOfRange_of_past {count : Nat} (hcount : count ≠ 0) (h : s.i.toNat + count - 1 > 0xFFF) :
    s.indexedOutOfRange count = some (max s.i.toNat 0x1000) := by
  cases hr : s.indexedOutOfRange count with
  | none =>
    have hlast := (outOfRange_eq_none_iff _ _).1 hr (count - 1) (by omega)
    omega
  | some a => rw [(outOfRange_eq_some hr).1]

/-- Settles O38: each of the three instructions raises the address its bounds check names, before it writes anything. -/
theorem dataAccessOutsideMemoryLatchesFault : Obligations.DataAccessOutsideMemoryLatchesFault := by
  refine fun x y n s => ⟨fun hn h => ?_, fun h => ?_, fun h => ?_⟩
  · have hr := s.indexedOutOfRange_of_past (fun h0 => hn (BitVec.eq_of_toNat_eq h0)) h
    simp only [exec, execDrw, hr]
    exact s.raise_encode (.drw x y n) (by decide) _
  · have hr := s.indexedOutOfRange_of_past (count := 3) (by decide) h
    simp only [exec, execBcd, hr]
    exact s.raise_encode (.bcd x) (by decide) _
  · have hr := s.indexedOutOfRange_of_past (Nat.succ_ne_zero x.toNat) h
    simp only [exec, execLdRegs, hr]
    exact s.raise_encode (.ldRegs x) (by decide) _

/-! ## Drawing once -/

/-- `DXYN` where every row address exists: the blit of the state before the step, then `VF`, then the strobe. -/
theorem exec_drw_of_inside (x y : Nibble) {n : Nibble} (h : n = 0 ∨ s.i.toNat + n.toNat ≤ 0x1000) :
    exec (.drw x y n) s =
      .next (((s.advance.setPixels (s.drawn x y n).grid).setReg vf (flagByte (s.drawn x y n).collision)).emitIf
        ((s.drawn x y n).changed || s.cfg.drwRefreshAlways) .refresh) := by
  have hr := s.indexedOutOfRange_of_inside (h.imp_left fun hn => congrArg BitVec.toNat hn)
  simp only [exec, execDrw, hr]

section
variable (x y n : Nibble)

/-- The cells the blit of `DXYN` covers are those of the statements. -/
theorem State.spriteCovers_iff (px : Fin 64) (py : Fin 32) :
    spriteCovers (s.reg x) (s.reg y) (s.spriteRows n) px py ↔ s.SpriteCovers x y n px py := by
  simp only [spriteCovers, State.SpriteCovers, State.spriteRows_get, State.spriteRows_length, State.indexed, exists_prop,
    exists_and_left]

theorem State.drawn_get (px : Fin 64) (py : Fin 32) :
    (s.SpriteCovers x y n px py → Grid.get (s.drawn x y n).grid px py = !s.pixel px py) ∧
      (¬ s.SpriteCovers x y n px py → Grid.get (s.drawn x y n).grid px py = s.pixel px py) := by
  rw [← State.spriteCovers_iff]
  exact blitSprite_get_eq _ _ _ (s.spriteRows_short n) _ px py

theorem State.drawn_collision_iff :
    (s.drawn x y n).collision = true ↔ ∃ px py, s.pixel px py = true ∧ s.SpriteCovers x y n px py := by
  simp only [← State.spriteCovers_iff]
  exact blitSprite_collision _ _ _ (s.spriteRows_short n) _

theorem State.drawn_changed_iff : (s.drawn x y n).changed = true ↔ ∃ px py, s.SpriteCovers x y n px py := by
  simp only [← State.spriteCovers_iff]
  exact blitSprite_changed _ _ _ (s.spriteRows_short n) _

end

/-- Settles O36: pixels, flag and strobe are the three results of the blit, each of which speaks of the covered cells. -/
theorem drawResult : Obligations.DrawResult := by
  intro x y n s h
  have hstrobe : ((s.drawn x y n).changed || s.cfg.drwRefreshAlways) = true ↔
      (∃ px py, s.SpriteCovers x y n px py) ∨ s.cfg.drwRefreshAlways = true := by
    rw [Bool.or_eq_true, State.drawn_changed_iff]
  refine ⟨_, exec_drw_of_inside s x y h, State.emitIf_pc _ _ _, fun px py => ?_, fun hon => ?_, fun hoff => ?_, fun hon => ?_,
    fun hoff => ?_, ?_⟩
  · rw [State.emitIf_pixel, State.setReg_pixel, State.pixel_setPixels]
    exact s.drawn_get x y n px py
  · rw [State.emitIf_reg, (s.drawn_collision_iff x y n).2 hon]
    exact State.reg_setReg_same _ vf 1
  · rw [State.emitIf_reg, Bool.eq_false_iff.2 (mt (s.drawn_collision_iff x y n).1 hoff)]
    exact State.reg_setReg_same _ vf 0
  · rw [State.emitIf_events, if_pos (hstrobe.2 hon)]
    rfl
  · rw [State.emitIf_events, if_neg (mt hstrobe.1 hoff)]
    rfl
  · exact s.frame_advance.trans ((State.frame_setPixels _ (by simp) _).trans
      ((State.frame_setReg _ (by simp [vf]) _).trans (State.frame_emitIf _ (by simp) _ _)))

/-! ## Drawing twice -/

/-- With `X` and `Y` not `0xF` a draw leaves its own operands alone, so a second one covers the same cells. -/
theorem Frame.spriteCovers_iff {s t : State} (h : Frame [0xF] [.pixels, .events] s t) {x y : Nibble} (hx : x ≠ 0xF)
    (hy : y ≠ 0xF) (n : Nibble) (px : Fin 64) (py : Fin 32) : t.SpriteCovers x y n px py ↔ s.SpriteCovers x y n px py := by
  have hindex : t.i = s.i := h.2 .index (by decide)
  have hmemory : ∀ a, t.byteAt a = s.byteAt a := h.2 .memory (by decide)
  simp only [State.SpriteCovers, hindex, hmemory, h.1 x (by simpa using hx), h.1 y (by simpa using hy)]

/-- Where every pixel is as before, a frame need not list the screen. -/
theorem Frame.of_pixels_same {s u : State} (h : Frame regs (.pixels :: parts) s u)
    (hpixels : ∀ px py, u.pixel px py = s.pixel px py) : Frame regs parts s u := by
  refine ⟨h.1, fun p hp => ?_⟩
  by_cases hp' : p = .pixels
  · subst hp'
    exact hpixels
  · exact h.2 p (List.not_mem_cons_of_ne_of_not_mem hp' hp)

/-- Settles O37: both draws cover the same cells, so each is flipped back, and a covered cell that was off before the first draw is
on before the second. -/
theorem drawingTwiceRestoresTheScreen : Obligations.DrawingTwiceRestoresTheScreen := by
  intro x y n s hx hy h
  obtain ⟨t, hst, hpct, hpixt, hcollt, -, -, -, hframet⟩ := drawResult x y n s h
  have hindex : t.i = s.i := hframet.2 .index (by decide)
  obtain ⟨u, htu, hpcu, hpixu, hcollu, -, -, -, hframeu⟩ := drawResult x y n t (by rwa [hindex])
  simp only [hframet.spriteCovers_iff hx hy] at hpixu hcollu
  have hrestored : ∀ px py, u.pixel px py = s.pixel px py := by
    intro px py
    by_cases hc : s.SpriteCovers x y n px py
    · rw [(hpixu px py).1 hc, (hpixt px py).1 hc, Bool.not_not]
    · rw [(hpixu px py).2 hc, (hpixt px py).2 hc]
  refine ⟨t, u, hst, htu, hrestored, ?_, ?_, (hframet.trans hframeu).of_pixels_same hrestored⟩
  · rintro hzero ⟨px, py, hc⟩
    have hoff : s.pixel px py = false := by
      by_contra hon
      have hone := hcollt ⟨px, py, Bool.eq_true_of_not_eq_false hon, hc⟩
      exact absurd (hzero.symm.trans hone) (by decide)
    exact hcollu ⟨px, py, by rw [(hpixt px py).1 hc, hoff]; rfl, hc⟩
  · rw [hpcu, hpct]
    exact BitVec.add_assoc s.pc 2 2

end Sys2Proof.Machine
end

section
/-! SUPPORT. Keys, delay timer and sound: the two skips on the latch, the wait for a key, the moves between `V[X]` and `Delay`, and
the beep (spec/45_keys_timers_sound.md R160 to R165). -/

namespace Sys2Proof.Machine

variable (s : State) {regs : List Nibble} {parts : List Part}

/-! ## Skips on a key -/

theorem exec_skp (x : Nibble) : exec (.skp x) s =
    .next (s.setPc (if ∃ k ∈ s.latch, k.toNat = (s.reg x).toNat then s.pc + 4 else s.pc + 2)) := by
  simp only [exec, execSkp, State.advance_skipIf, State.keyPressed_iff]

theorem exec_sknp (x : Nibble) : exec (.sknp x) s =
    .next (s.setPc (if ∃ k ∈ s.latch, k.toNat = (s.reg x).toNat then s.pc + 2 else s.pc + 4)) := by
  simp only [exec, execSknp, State.advance_skipIf, Bool.not_eq_true', ← Bool.not_eq_true, State.keyPressed_iff, ite_not]

/-- The latch holds codes of 4 bits, so no key has a code above 0xF. -/
theorem State.not_exists_key_of_above {n : Nat} (hn : n > 0xF) : ¬ ∃ k ∈ s.latch, k.toNat = n := by
  rintro ⟨k, -, hk⟩
  have hlt : k.toNat < 16 := k.isLt
  omega

/-- Settles O39: each skip is a new `PC` and nothing else, chosen by whether `V[X]` is the code of a key in the latch. -/
theorem keySkips : Obligations.KeySkips := by
  intro x s
  constructor
  · exact ⟨_, exec_skp s x, rfl, fun habove => if_neg (s.not_exists_key_of_above habove), s.frame_setPc _⟩
  · exact ⟨_, exec_sknp s x, rfl, fun habove => if_neg (s.not_exists_key_of_above habove), s.frame_setPc _⟩

/-! ## Delay timer -/

theorem exec_ldVxDt (x : Nibble) : exec (.ldVxDt x) s = .next (s.advance.setReg x s.delay) := rfl

theorem exec_ldDtVx (x : Nibble) : exec (.ldDtVx x) s = .next (s.advance.setDelay (s.reg x)) := rfl

theorem State.frame_setDelay (hparts : .delay ∈ parts) (b : Byte) : Frame regs parts s (s.setDelay b) := by
  refine ⟨fun _ _ => rfl, fun p hp => ?_⟩
  have hself := Same.refl p s
  cases p
  case delay => exact absurd hparts hp
  all_goals exact hself

/-- Settles O40: each instruction is one write after the fetch's move of `PC`; the frame of the write to `Delay` lists no clock, so
it leaves the accumulators. -/
theorem delayTimerResults : Obligations.DelayTimerResults := by
  intro x s
  constructor
  · rw [exec_ldVxDt]
    exact s.result_advance_setReg x s.delay
  · exact ⟨_, exec_ldDtVx s x, rfl, rfl, s.frame_advance.trans (State.frame_setDelay _ (by simp) _)⟩

/-! ## Wait for a key -/

/-- Going back by 2 undoes the fetch's move of `PC`, the only change so far (spec/45_keys_timers_sound.md R163). -/
theorem State.advance_back : s.advance.setPc (s.advance.pc - 2) = s :=
  congrArg s.setPc (BitVec.add_sub_cancel s.pc 2)

theorem exec_ldVxK_of_no_key (x : Nibble) (h : s.latch = []) : exec (.ldVxK x) s = .next s := by
  simp only [exec, execLdVxK, s.mostRecentKey_eq_none_iff.2 h, State.advance_back]

theorem exec_ldVxK_of_key (x : Nibble) {k : Nibble} (h : s.mostRecentKey = some k) :
    exec (.ldVxK x) s = .next (s.advance.setReg x (k.setWidth 8)) := by
  simp only [exec, execLdVxK, h]

/-- `MostRecentKey` is the key inserted last (spec/47_host_operations.md R189). -/
theorem State.mostRecentKey_of_latch_append {older : List Nibble} {k : Nibble} (h : s.latch = older ++ [k]) :
    s.mostRecentKey = some k := by
  rw [State.mostRecentKey, h, List.getLast?_concat]

/-- A key code zero-extended to the byte `V[X]` receives is the same number. -/
theorem toNat_setWidth_key (k : Nibble) : (k.setWidth 8 : Byte).toNat = k.toNat :=
  BitVec.toNat_setWidth_of_le (by decide)

/-- Settles O41: an empty latch has no most recent key, and the last one of a latch is the value written to `V[X]`. -/
theorem keyWaitResult : Obligations.KeyWaitResult := by
  refine fun x s => ⟨exec_ldVxK_of_no_key s x, fun older k hlatch => ?_⟩
  refine ⟨_, exec_ldVxK_of_key s x (s.mostRecentKey_of_latch_append hlatch), rfl, ?_, s.frame_advance_setReg x _⟩
  rw [State.reg_setReg_same, toNat_setWidth_key]

/-! ## Sound -/

theorem exec_snd (x : Nibble) : exec (.snd x) s = .next (s.advance.emitIf true (.beep (s.reg x))) := rfl

/-- Settles O42: the beep is emitted under no condition on `V[X]`, and nothing but `PC` and the events changes. -/
theorem soundResult : Obligations.SoundResult := by
  intro x s
  exact ⟨_, exec_snd s x, rfl, rfl, s.frame_advance.trans (State.frame_emitIf _ (by simp) _ _)⟩

end Sys2Proof.Machine
end

section
/-! SUPPORT. Index register and memory: the two instructions that change `I`, the store of the three decimal digits, and the load of
the register file (spec/46_index_memory.md R170 to R173). -/

namespace Sys2Proof.Machine

variable (s : State)

/-! ## Decimal digits -/

/-- Settles O46: the store holds one digit in each of its three bytes and touches no other byte and no other part. -/
theorem decimalDigitsResult : Obligations.DecimalDigitsResult := by
  intro x s hwf hi
  obtain ⟨hundreds, tens, units, hdigits, hhundreds, htens, hunits⟩ := exists_digits (s.reg x)
  have hread (k : Nat) (hk : k < [hundreds, tens, units].length) :=
    State.byteAt_storeBytes_inside (s := s.advance) hwf s.i.toNat _ hk
  have hexec := exec_bcd_of_inRange x hi
  rw [hdigits] at hexec
  refine ⟨_, hexec, rfl, ?_, ?_, ?_, fun a ha => ?_, s.frame_advance.trans (s.advance.frame_storeBytes _ _)⟩
  · exact (congrArg BitVec.toNat (hread 0 (by simp))).trans hhundreds
  · exact (congrArg BitVec.toNat (hread 1 (by simp))).trans htens
  · exact (congrArg BitVec.toNat (hread 2 (by simp))).trans hunits
  · exact s.advance.byteAt_storeBytes_of_outside _ _ a ha

/-! ## Register file -/

/-- No part of a frame is a register, so a new register file is no change of any part. -/
theorem State.same_advance_setRegs (v : Vector Byte 16) (p : Part) : Same p s (s.advance.setRegs v) :=
  Same.refl p s

/-- `FX65` where its `X + 1` addresses exist: the register file is the loaded one (spec/46_index_memory.md R173). -/
theorem exec_ldRegs_of_inside {x : Nibble} (h : s.i.toNat + x.toNat ≤ 0xFFF) :
    exec (.ldRegs x) s = .next (s.advance.setRegs (s.loadedRegs x)) := by
  have hr : s.indexedOutOfRange (x.toNat + 1) = none := s.indexedOutOfRange_of_inside (.inr (by omega))
  simp only [exec, execLdRegs, hr]

/-- Settles O47: the loaded register file takes `V[0]` to `V[X]` from memory and the others from the old one. -/
theorem loadRegistersResult : Obligations.LoadRegistersResult := by
  intro x s h
  refine ⟨_, exec_ldRegs_of_inside s h, rfl, fun r hr => ?_, fun r hr => ?_, s.same_advance_setRegs _⟩
  · exact (s.loadedRegs_get x r).trans (if_pos hr)
  · exact (s.loadedRegs_get x r).trans (if_neg (Nat.not_le.2 hr))

/-! ## Index register -/

theorem exec_addI (x : Nibble) :
    exec (.addI x) s = .next (s.advance.setI (BitVec.ofNat 16 ((s.i.toNat + (s.reg x).toNat) % 65536))) := rfl

theorem exec_ldF (x : Nibble) : exec (.ldF x) s = .next (s.advance.setI (BitVec.ofNat 16 ((s.reg x).toNat * 5))) := rfl

/-- Settles O44: the sum modulo 65536 is what a word holds, and the frame lists no register, so no flag. -/
theorem addIndexResult : Obligations.AddIndexResult := by
  intro x s
  refine ⟨_, exec_addI s x, rfl, ?_, s.frame_advance_setI _⟩
  rw [State.setI_i, BitVec.toNat_ofNat, Nat.mod_mod]

/-- Settles O45: five times a byte is at most 1275, so the word holds the whole product. -/
theorem fontPointerResult : Obligations.FontPointerResult := by
  intro x s
  have hlt : (s.reg x).toNat < 256 := (s.reg x).isLt
  have hi : (BitVec.ofNat 16 ((s.reg x).toNat * 5)).toNat = (s.reg x).toNat * 5 :=
    (BitVec.toNat_ofNat _ _).trans (Nat.mod_eq_of_lt (by omega))
  refine ⟨_, exec_ldF s x, rfl, hi, ?_, s.frame_advance_setI _⟩
  rw [State.setI_i, hi]
  omega

end Sys2Proof.Machine
end

section
/-! SUPPORT. The step of a host's move: key events, `Reset`, `LoadRom`, the entry of `Update`, and the moves that have no meaning
(spec/47_host_operations.md R181, R187 to R189, R194, spec/70_reset_and_hazards.md R230 to R233, R240). -/

namespace Sys2Proof.Machine

section

variable {s : State} {m : HostMove} {rest : List HostMove}

/-- The host's next move is taken off the list and made. -/
theorem step_of_move (hscript : s.script = m :: rest) : step s = hostMove m (s.setScript rest) := by
  simp only [step, transition, hscript]

theorem State.unlessUpdating_of_idle (hupdate : s.update = none) (r : Result) : s.unlessUpdating r = r := by
  simp only [State.unlessUpdating, hupdate]

theorem State.unlessUpdating_of_calling (hupdate : s.update ≠ none) (r : Result) :
    s.unlessUpdating r = .refused .overlappingOperation := by
  obtain ⟨c, hc⟩ := Option.ne_none_iff_exists'.1 hupdate
  simp only [State.unlessUpdating, hc]

/-- Outside an `Update` the move `Reset` answers. -/
theorem step_of_reset_move (hscript : s.script = .reset :: rest) (hupdate : s.update = none) :
    step s = .next (s.setScript rest).resetOp :=
  (step_of_move hscript).trans (State.unlessUpdating_of_idle hupdate _)

theorem step_of_loadRom_move {bytes : List Byte} (hscript : s.script = .loadRom bytes :: rest) (hupdate : s.update = none) :
    step s = (s.setScript rest).loadRom bytes :=
  (step_of_move hscript).trans (State.unlessUpdating_of_idle hupdate _)

theorem step_of_update_move {elapsed : Seconds} {ips : Nat} (hscript : s.script = .update elapsed ips :: rest)
    (hupdate : s.update = none) :
    step s = if 0 ≤ elapsed then .next ((s.setScript rest).beginUpdate elapsed ips) else .refused .negativeElapsed :=
  (step_of_move hscript).trans (State.unlessUpdating_of_idle hupdate _)

end

/-! ## Key events -/

/-- There are sixteen keys, so a latch without repeats holds at most as many (spec/10_state.md R30). -/
theorem length_le_of_nodup_keys {keys : List Nibble} (h : keys.Nodup) : keys.length ≤ 16 :=
  h.length_le_card.trans_eq FinEnum.card_eq_fintypeCard.symm

/-- `SetKeyUp` keeps the other keys in their order (spec/47_host_operations.md R188). -/
theorem State.keyUp_latch (s : State) (k : Nibble) : (s.keyUp k).latch = s.latch.filter (· ≠ k) :=
  List.filter_congr fun j _ => by rw [Bool.eq_iff_iff, bne_iff_ne, decide_eq_true_iff]

/-- `SetKeyDown` does the same and puts the key last (spec/47_host_operations.md R187). -/
theorem State.keyDown_latch (s : State) (k : Nibble) : (s.keyDown k).latch = s.latch.filter (· ≠ k) ++ [k] :=
  congrArg (· ++ [k]) (s.keyUp_latch k)

/-- Settles O43: a key event writes the latch and nothing else, whatever else goes on. -/
theorem keyEventsReachTheLatch : Obligations.KeyEventsReachTheLatch := by
  intro s k rest
  have hdown := (s.setScript rest).keyDown_latch k
  have hup := (s.setScript rest).keyUp_latch k
  constructor
  · intro hscript
    refine ⟨_, step_of_move hscript, rfl, hdown, rfl, State.mostRecentKey_of_latch_append _ hdown, fun hnodup => ?_,
      s.frame_setScript_setLatch rest _⟩
    have hkeys := State.nodup_keyDown_latch (s := s.setScript rest) hnodup k
    exact ⟨hkeys, length_le_of_nodup_keys hkeys⟩
  · intro hscript
    refine ⟨_, step_of_move hscript, rfl, hup, rfl, fun hk => hup.trans ?_, s.frame_setScript_setLatch rest _⟩
    exact List.filter_eq_self.2 fun j hj => decide_eq_true (ne_of_mem_of_not_mem hj hk)

/-! ## Reset and LoadRom -/

/-- Settles O50: the move is the power-on state of the same parameters, the kept fields put back. -/
theorem resetMoveResult : Obligations.ResetMoveResult := by
  intro s rest hscript hupdate
  obtain ⟨hreg, hpixel, hbyte⟩ := (s.setScript rest).resetOp_reads
  exact ⟨_, step_of_reset_move hscript hupdate, rfl, hreg, rfl, rfl, rfl, rfl, rfl, rfl, hpixel, rfl, rfl,
    fun a ha => (congrArg some (hbyte a)).trans (Memory.background_font _ ha),
    fun a ha => (hbyte a).trans (Memory.background_zero _ ha), rfl, rfl, rfl, rfl, rfl⟩

section

variable (s : State) (bytes : List Byte)

theorem State.loadRom_of_fitting (hne : bytes ≠ []) (hlen : bytes.length ≤ romMax) :
    s.loadRom bytes = .next (s.loadProgram bytes) :=
  (if_neg hne).trans (if_pos hlen)

theorem State.loadRom_of_too_long (hlen : romMax < bytes.length) : s.loadRom bytes = .refused .romTooLong :=
  (if_neg (List.ne_nil_of_length_pos (Nat.zero_lt_of_lt hlen))).trans (if_neg (not_le.2 hlen))

/-- The program reads back from 0x200 on, byte for byte (spec/70_reset_and_hazards.md R232). -/
theorem State.loadProgram_byteAt_inside {k : Nat} (hk : k < bytes.length) :
    (s.loadProgram bytes).byteAt (programBase + k) = bytes[k] :=
  Memory.read_writeList_inside (m := []) rfl programBase bytes k hk

/-- Outside the program memory is as after power-on. -/
theorem State.loadProgram_byteAt_outside {a : Nat} (ha : a < programBase ∨ programBase + bytes.length ≤ a) :
    (s.loadProgram bytes).byteAt a = Memory.background s.cfg a :=
  (s.resetOp.byteAt_storeBytes_of_outside programBase bytes a ha).trans rfl

end

/-- Settles O51: a reset, then a store that touches no byte outside the program and nothing but memory. -/
theorem loadRomMoveResult : Obligations.LoadRomMoveResult := by
  intro s bytes rest hscript hupdate hne hlen
  obtain ⟨hreg, hpixel, -⟩ := (s.setScript rest).resetOp_reads
  have houtside {a : Nat} := (s.setScript rest).loadProgram_byteAt_outside bytes (a := a)
  refine ⟨_, (step_of_loadRom_move hscript hupdate).trans (State.loadRom_of_fitting _ bytes hne hlen),
    fun k hk => (s.setScript rest).loadProgram_byteAt_inside bytes hk, fun a ha => ?_, fun a ha hout => ?_,
    rfl, hreg, rfl, rfl, rfl, rfl, rfl, hpixel, rfl, rfl⟩
  · rw [houtside (.inl (ha.trans (by decide)))]
    exact Memory.background_font _ ha
  · exact (houtside hout).trans (Memory.background_zero _ ha)

/-- Settles O52: the record is part of the state `LoadRom` of no bytes leaves. -/
theorem invalidRomMoveLatchesFault : Obligations.InvalidRomMoveLatchesFault := by
  intro s rest hscript hupdate
  exact ⟨(s.setScript rest).invalidRom, step_of_loadRom_move hscript hupdate, rfl, rfl, rfl⟩

/-! ## Update, and the moves without a meaning -/

theorem State.frame_setScript_call (s : State) (ms : List HostMove) (a : Seconds) (u : Option UpdateCall) :
    Frame [] [.clock, .update, .script] s (((s.setScript ms).setAccI a).setUpdate u) := by
  refine ⟨fun _ _ => rfl, fun p hp => ?_⟩
  have hself := Same.refl p s
  cases p
  case clock | update | script => simp at hp
  all_goals exact hself

/-- Settles O58: the move is `beginUpdate`, which does nothing on a faulted core. -/
theorem updateMoveBeginsTheCall : Obligations.UpdateMoveBeginsTheCall := by
  intro s elapsed ips rest hscript hupdate helapsed
  have hstep := (step_of_update_move hscript hupdate).trans (if_pos helapsed)
  rcases (s.setScript rest).beginUpdate_cases elapsed ips with ⟨hfault, hbegin⟩ | ⟨hfault, hbegin⟩ <;>
    rw [hbegin] at hstep
  · exact ⟨fun hnone => absurd hnone hfault, fun _ => hstep⟩
  · exact ⟨fun _ => ⟨_, hstep, rfl, rfl, rfl, rfl, rfl, s.frame_setScript_call rest _ _⟩,
      fun hsome => absurd hfault hsome⟩

/-- Settles O53: an operation that may not overlap asks first whether a call is in progress. -/
theorem movesWithoutMeaningAreRefused : Obligations.MovesWithoutMeaningAreRefused := by
  intro s m rest hscript
  refine ⟨fun hupdate hm => ?_, fun hupdate bytes hm hlen => ?_, fun hupdate e ips hm he => ?_⟩
  · rw [step_of_move hscript]
    rcases hm with rfl | ⟨bytes, rfl⟩ | ⟨e, ips, rfl⟩ | rfl <;> exact State.unlessUpdating_of_calling hupdate _
  · subst hm
    exact (step_of_loadRom_move hscript hupdate).trans (State.loadRom_of_too_long _ bytes hlen)
  · subst hm
    exact (step_of_update_move hscript hupdate).trans (if_neg (not_le.2 he))

end Sys2Proof.Machine
end

section
/-! SUPPORT. Which record an instruction can latch, and that every instruction answers a next state (spec/60_exceptions.md R206,
R211, R212). -/

namespace Sys2Proof.Machine

/-- `FX0A` answers with and without a key down (spec/45_keys_timers_sound.md R163). -/
theorem exec_ldVxK_answers (x : Nibble) (s : State) : ∃ t, exec (.ldVxK x) s = .next t := by
  cases hkey : s.mostRecentKey with
  | none => exact ⟨_, exec_ldVxK_of_no_key s x (s.mostRecentKey_eq_none_iff.1 hkey)⟩
  | some k => exact ⟨_, exec_ldVxK_of_key s x hkey⟩

/-- Settles O13: an instruction that checks something answers on both sides of its check, the other ones are one state. -/
theorem instructionsNeverStopTheMachine : Obligations.InstructionsNeverStopTheMachine := by
  intro i s
  cases i
  case ret =>
    by_cases hsp : s.sp = 0
    · exact ⟨_, exec_ret_of_empty s hsp⟩
    · exact ⟨_, exec_ret_of_valid hsp⟩
  case call nnn =>
    by_cases hsp : s.sp = s.cfg.stackDepth
    · exact ⟨_, exec_call_of_full s nnn hsp⟩
    · exact ⟨_, exec_call_of_room nnn hsp⟩
  case ldVxK x => exact exec_ldVxK_answers x s
  case drw | bcd | ldRegs =>
    simp only [exec, execDrw, execBcd, execLdRegs]
    split <;> exact ⟨_, rfl⟩
  all_goals exact ⟨_, rfl⟩

/-- The instructions that can latch a fault, each with the cause (spec/60_exceptions.md R212). -/
def CanLatch (i : Instr) (cause : Cause) : Prop :=
  (i = .ret ∧ cause = .stackUnderflow) ∨ ((∃ nnn, i = .call nnn) ∧ cause = .stackOverflow) ∨
    (((∃ x y n, i = .drw x y n) ∨ (∃ x, i = .bcd x) ∨ ∃ x, i = .ldRegs x) ∧ cause = .addressOutOfRange)

/-- No instruction latches the cause that dispatch latches. -/
theorem CanLatch.ne_unimplementedOpcode {i : Instr} {cause : Cause} (h : CanLatch i cause) :
    cause ≠ .unimplementedOpcode := by
  rcases h with ⟨-, rfl⟩ | ⟨-, rfl⟩ | ⟨-, rfl⟩ <;> decide

/-- An instruction that latches a fault where none was has latched its own record on the state before the step. -/
theorem exec_latches {i : Instr} {s t : State} (hs : s.fault = none) (h : exec i s = .next t) (ht : t.fault ≠ none) :
    ∃ cause info, t = s.setFault (some (s.faultRecord i.encode cause info)) ∧ CanLatch i cause :=
  (exec_fault h).resolve_left fun hsame => ht (hsame.trans hs)

/-- Settles O11: the record is the one `raise` takes of the state before the step, with no sub-selector but for dispatch. -/
theorem faultDiscardsTheStep : Obligations.FaultDiscardsTheStep := by
  intro i s t hs h ht
  obtain ⟨cause, info, rfl, hcause⟩ := exec_latches hs h ht
  exact ⟨_, rfl, rfl, rfl, rfl, if_neg hcause.ne_unimplementedOpcode⟩

/-- Settles O12: the fetch check comes before dispatch, and the record latched by an instruction has one of its causes. -/
theorem faultsByInstruction : Obligations.FaultsByInstruction := by
  refine ⟨fun s hs hpc => ?_, fun i s t f hs h ht => ?_⟩
  · exact ⟨_, _, executeOne_of_not_fetched hs (s.fetch_eq.trans (if_neg (not_le.2 hpc))), rfl, rfl⟩
  · obtain ⟨cause, info, rfl, hcause⟩ := exec_latches hs h (by simp [ht])
    cases ht
    exact hcause

end Sys2Proof.Machine
end

section
/-! SUPPORT. The two loops of `Update` in closed form, and the model's action-by-action call against the whole transaction
(spec/47_host_operations.md R181 to R186). -/

namespace Sys2Proof.Machine

/-! ## How often a loop runs -/

theorem timerInterval_pos : 0 < timerInterval := by
  norm_num [timerInterval]

/-- As many steps as are due fit into what is accumulated, and one more does not (spec/47_host_operations.md R182, R183). -/
theorem dueCount_bounds {acc step : Seconds} (hstep : 0 < step) (hacc : 0 ≤ acc) :
    (dueCount acc step : Rat) * step ≤ acc ∧ acc < ((dueCount acc step : Rat) + 1) * step := by
  have hlo : (⌊acc / step⌋₊ : Rat) * step ≤ acc := (le_div_iff₀ hstep).1 (Nat.floor_le (div_nonneg hacc hstep.le))
  have hhi : acc < ((⌊acc / step⌋₊ : Rat) + 1) * step := (div_lt_iff₀ hstep).1 (Nat.lt_floor_add_one _)
  rw [dueCount_eq hstep hlo hhi]
  exact ⟨hlo, hhi⟩

/-! ## The timer loop -/

section

variable (s : State)

/-- Writing what a state holds changes nothing. -/
theorem State.setUpdate_self {u : Option UpdateCall} (h : s.update = u) : s.setUpdate u = s :=
  h ▸ rfl

/-- `m` ticks count `Delay` down by `m`, stopping at 0, and consume `m` intervals (spec/47_host_operations.md R183). -/
theorem timerLoop_eq (m : Nat) :
    timerLoop m s = (s.setDelay (BitVec.ofNat 8 (s.delay.toNat - m))).setAccT (s.accT - m * timerInterval) := by
  induction m generalizing s with
  | zero => simp [timerLoop, State.setDelay, State.setAccT]
  | succ m ih =>
    have hdelay : (BitVec.ofNat 8 (s.delay.toNat - 1)).toNat = s.delay.toNat - 1 :=
      (BitVec.toNat_ofNat _ _).trans (Nat.mod_eq_of_lt (by omega))
    have hacc : s.accT - 1 / 60 - m * timerInterval = s.accT - (m + 1 : Nat) * timerInterval := by
      push_cast [timerInterval]
      ring
    rw [timerLoop, ih, State.tick_eq, hdelay, hacc, Nat.sub_sub, Nat.add_comm 1 m]
    rfl

/-- The timer half of a call (spec/47_host_operations.md R183). -/
theorem State.timerPart_eq (elapsed : Seconds) {m : Nat} (hm : dueCount (s.accT + elapsed) timerInterval = m) :
    s.timerPart elapsed =
      (s.setDelay (BitVec.ofNat 8 (s.delay.toNat - m))).setAccT (s.accT + elapsed - m * timerInterval) := by
  rw [State.timerPart, hm, timerLoop_eq]
  rfl

/-- A count of ticks never leaves the byte `Delay`. -/
theorem State.toNat_delay_sub (m : Nat) : (BitVec.ofNat 8 (s.delay.toNat - m)).toNat = s.delay.toNat - m :=
  (BitVec.toNat_ofNat _ _).trans (Nat.mod_eq_of_lt (by omega))

theorem State.frame_setDelay_setAccT (b : Byte) (a : Seconds) : Frame [] [.delay, .clock] s ((s.setDelay b).setAccT a) := by
  refine ⟨fun _ _ => rfl, fun p hp => ?_⟩
  have hself := Same.refl p s
  cases p
  case delay | clock => simp at hp
  all_goals exact hself

end

/-- Settles O55: the number of ticks due is `m`, and the timer loop is its closed form. -/
theorem updateCountsTimerTicks : Obligations.UpdateCountsTimerTicks := by
  intro s elapsed m hlo hhi
  have hdue : dueCount (s.accT + elapsed) timerInterval = m :=
    dueCount_eq timerInterval_pos (by unfold timerInterval; linarith) (by unfold timerInterval; linarith)
  rw [s.timerPart_eq elapsed hdue]
  refine ⟨s.toNat_delay_sub m, ?_, ?_, ?_, rfl, rfl, s.frame_setDelay_setAccT _ _⟩ <;>
    simp only [State.setAccT_accT, timerInterval] <;> linarith

/-! ## A second, in any split -/

/-- What calls of `total` seconds do to the timer: some number of ticks, what is left of the time being less than one more tick
takes (spec/47_host_operations.md R186). -/
def CountsDown (s t : State) (total : Seconds) : Prop :=
  ∃ m : Nat, t.delay.toNat = s.delay.toNat - m ∧ t.accT = s.accT + total - m * timerInterval ∧
    0 ≤ t.accT ∧ t.accT < timerInterval

section

variable {s t u : State} {a b : Seconds}

theorem CountsDown.trans (h : CountsDown s t a) (h' : CountsDown t u b) : CountsDown s u (a + b) := by
  obtain ⟨m, hdelay, hacc, -, -⟩ := h
  obtain ⟨m', hdelay', hacc', hlo, hhi⟩ := h'
  refine ⟨m + m', by omega, ?_, hlo, hhi⟩
  rw [hacc', hacc]
  push_cast
  ring

/-- The timer half of one call, whatever the instruction half did beside `Delay` and `acc_t`. -/
theorem CountsDown.timerPart (hdelay : u.delay = s.delay) (hacc : u.accT = s.accT) (hs : 0 ≤ s.accT) (ha : 0 ≤ a) :
    CountsDown s (u.timerPart a) a := by
  obtain ⟨hlo, hhi⟩ := dueCount_bounds timerInterval_pos (add_nonneg (hs.trans_eq hacc.symm) ha)
  rw [u.timerPart_eq a rfl]
  refine ⟨dueCount (u.accT + a) timerInterval, ?_, ?_, sub_nonneg.2 hlo, ?_⟩
  · exact (u.toNat_delay_sub _).trans (by rw [hdelay])
  · rw [State.setAccT_accT, hacc]
  · rw [State.setAccT_accT]
    linarith

/-- Any calls one after another, by their total time. -/
theorem CountsDown.calls (calls : List (Seconds × (State → State))) (hlo : 0 ≤ s.accT) (hhi : s.accT < timerInterval)
    (hcalls : ∀ c ∈ calls, 0 ≤ c.1 ∧ ∀ u, (c.2 u).delay = u.delay ∧ (c.2 u).accT = u.accT) :
    CountsDown s (calls.foldl (fun u c => (c.2 u).timerPart c.1) s) (calls.map Prod.fst).sum := by
  induction calls generalizing s with
  | nil => exact ⟨0, rfl, by simp, hlo, hhi⟩
  | cons c calls ih =>
    obtain ⟨⟨hc, hkeep⟩, hrest⟩ := List.forall_mem_cons.1 hcalls
    have hfirst : CountsDown s ((c.2 s).timerPart c.1) c.1 := .timerPart (hkeep s).1 (hkeep s).2 hlo hc
    have ⟨_, _, _, hlo', hhi'⟩ := hfirst
    exact hfirst.trans (ih hlo' hhi' hrest)

end

/-- Settles O56: residues before and after lie in the same interval of 1/60 second, so the ticks of one second are exactly 60. -/
theorem oneSecondIsSixtyTicks : Obligations.OneSecondIsSixtyTicks := by
  intro s calls hlo hhi hcalls hsum
  obtain ⟨m, hdelay, hacc, hlo', hhi'⟩ := CountsDown.calls calls hlo hhi hcalls
  rw [hsum] at hacc
  rw [hacc] at hlo' hhi'
  have hm : m = 60 := by
    unfold timerInterval at hlo' hhi'
    have hlt : (m : Rat) < 61 := by linarith
    have hgt : (59 : Rat) < m := by linarith
    norm_cast at hlt hgt
    omega
  subst hm
  refine ⟨hdelay, hacc.trans ?_⟩
  norm_num [timerInterval]

/-! ## The instruction loop -/

section

variable {iv : Seconds} {n : Nat} {s t : State}

/-- A loop with a budget tick left is one `ExecuteOne`, after which a fault ends the call or the loop goes on with one interval
less (spec/47_host_operations.md R181, R185). -/
theorem instructionLoop_succ_cases (h : instructionLoop iv (n + 1) s = .next t) :
    ∃ u, executeOne s = .next u ∧ ((u.fault ≠ none ∧ t = u.abortUpdate) ∨
      (u.fault = none ∧ instructionLoop iv n (u.setAccI (u.accI - iv)) = .next t)) := by
  unfold instructionLoop at h
  split at h
  next u hu =>
    refine ⟨u, hu, ?_⟩
    split at h
    next f hf => exact .inl ⟨by simp [hf], (Host.Outcome.next.inj h).symm⟩
    next hf => exact .inr ⟨hf, h⟩
  · cases h
  · cases h

/-- `ExecuteOne` leaves the host's coming moves alone. -/
theorem executeOne_keeps_script (h : executeOne s = .next t) : t.script = s.script := by
  rcases executeOne_cases h with ⟨-, rfl⟩ | ⟨-, w, k, info, rfl⟩ | ⟨-, -, i, hi⟩
  · rfl
  · rfl
  · obtain ⟨-, -, -, -, -, hscript, -⟩ := exec_keeps hi
    exact hscript

/-- A loop that ends with no fault has consumed its budget ticks, and nothing else moved a clock, the call in progress or the
host's moves (spec/47_host_operations.md R182). -/
theorem instructionLoop_keeps (h : instructionLoop iv n s = .next t) (ht : t.fault = none) :
    t.accI = s.accI - n * iv ∧ t.accT = s.accT ∧ t.update = s.update ∧ t.script = s.script := by
  induction n generalizing s with
  | zero =>
    cases h
    simp
  | succ n ih =>
    obtain ⟨u, hu, ⟨hfault, rfl⟩ | ⟨-, hloop⟩⟩ := instructionLoop_succ_cases h
    · exact absurd ht hfault
    · obtain ⟨hI, hT, hupdate, hscript⟩ := ih hloop
      obtain ⟨eI, eT, -, eupdate, -⟩ := executeOne_keeps hu
      have hkeep := executeOne_keeps_script hu
      refine ⟨?_, hT.trans eT, hupdate.trans eupdate, hscript.trans hkeep⟩
      rw [hI, State.setAccI_accI, eI]
      push_cast
      ring

end

/-- Settles O54: the number of instructions due is `n`, and each budget tick of the loop consumes one interval. -/
theorem updateCountsInstructions : Obligations.UpdateCountsInstructions := by
  intro s t elapsed ips n _ hlo hhi
  refine ⟨by simp [interval], dueCount_eq (interval_pos ips) hlo hhi, fun h ht => ?_⟩
  obtain ⟨hI, hT, -, -⟩ := instructionLoop_keeps h ht
  rw [State.setAccI_accI] at hI
  refine ⟨hI, ?_, ?_, hT⟩ <;> rw [hI] <;> linarith

/-! ## The call in progress, action by action -/

/-- Some number of steps lead from `s` to `t`. -/
abbrev Reaches : State → State → Prop :=
  Relation.ReflTransGen fun a b => step a = .next b

section

variable {s t u : State}

/-- What is reached is reached by a run of the machine. -/
theorem Reaches.exists_run (h : Reaches s t) : ∃ k, Host.Core.run Sys2Proof.core k s = .next t := by
  induction h using Relation.ReflTransGen.head_induction_on with
  | refl => exact ⟨0, rfl⟩
  | head hstep _ ih =>
    obtain ⟨k, hk⟩ := ih
    refine ⟨k + 1, ?_⟩
    simp only [Host.Core.run, Sys2Proof.core, hstep]
    exact hk

variable {c : UpdateCall}

/-- The change from the instruction loop to the timer loop (spec/47_host_operations.md R184). -/
theorem updateAction_of_no_instruction_due (hphase : c.phase = .instructions) (hdone : s.accI < interval c.ips) :
    updateAction c s = .next ((s.setAccT (s.accT + c.elapsed)).setUpdate (some { c with phase := .timers })) := by
  rw [updateAction, hphase]
  exact if_neg (not_le.2 hdone)

/-- A due timer tick. -/
theorem updateAction_of_tick_due (hphase : c.phase = .timers) (hdue : timerInterval ≤ s.accT) :
    updateAction c s = .next s.tick := by
  rw [updateAction, hphase]
  exact if_pos hdue

/-- The return of the call. -/
theorem updateAction_of_no_tick_due (hphase : c.phase = .timers) (hdone : s.accT < timerInterval) :
    updateAction c s = .next (s.setUpdate none) := by
  rw [updateAction, hphase]
  exact if_neg (not_le.2 hdone)

/-- An action of the call in progress, the host having no further moves, and what is reached from there. -/
theorem Reaches.action (hscript : s.script = []) (h : updateAction c (s.setUpdate (some c)) = .next t) (h' : Reaches t u) :
    Reaches (s.setUpdate (some c)) u :=
  Relation.ReflTransGen.head ((step_of_update (s := s.setUpdate (some c)) hscript rfl).trans h) h'

/-- A due budget tick of the call in progress: its `ExecuteOne` sees neither the call nor the budget. -/
theorem updateAction_of_instruction_due (hphase : c.phase = .instructions) (hdue : interval c.ips ≤ s.accI)
    (h : executeOne s = .next u) :
    updateAction c (s.setUpdate (some c)) = .next ((u.setUpdate (some c)).afterTick (interval c.ips)) := by
  rw [updateAction_of_due (s := s.setUpdate (some c)) hphase hdue, executeOne_setUpdate, h]
  rfl

theorem State.afterTick_of_faulted (hfault : s.fault ≠ none) (iv : Seconds) : s.afterTick iv = s.abortUpdate :=
  (s.afterTick_cases iv).elim And.right fun h => absurd h.1 hfault

theorem State.afterTick_of_healthy (hfault : s.fault = none) (iv : Seconds) : s.afterTick iv = s.setAccI (s.accI - iv) :=
  (s.afterTick_cases iv).elim (fun h => absurd hfault h.1) And.right

/-- A tick does not see the call in progress. -/
theorem State.tick_setUpdate (s : State) (v : Option UpdateCall) : (s.setUpdate v).tick = s.tick.setUpdate v := by
  simp only [State.tick_eq]
  rfl

/-- The call in progress runs the timer loop and returns. -/
theorem reaches_timerLoop {m : Nat} (hscript : s.script = []) (hphase : c.phase = .timers)
    (hlo : (m : Rat) * timerInterval ≤ s.accT) (hhi : s.accT < ((m : Rat) + 1) * timerInterval) :
    Reaches (s.setUpdate (some c)) ((timerLoop m s).setUpdate none) := by
  induction m generalizing s with
  | zero => exact .action hscript (updateAction_of_no_tick_due hphase (by simpa using hhi)) .refl
  | succ m ih =>
    have hacc : s.tick.accT = s.accT - timerInterval := by rw [State.tick_eq]; rfl
    have hscript' : s.tick.script = [] := by rw [State.tick_eq]; exact hscript
    have hrest := mul_nonneg m.cast_nonneg timerInterval_pos.le
    push_cast at hlo hhi
    refine .action hscript (updateAction_of_tick_due hphase (show timerInterval ≤ s.accT by linarith)) ?_
    rw [State.tick_setUpdate]
    exact ih hscript' (by linarith) (by linarith)

/-- From the end of the instruction loop on, the call in progress is the timer half (spec/47_host_operations.md R183, R184). -/
theorem reaches_timerPart (hscript : s.script = []) (hupdate : s.update = none) (hphase : c.phase = .instructions)
    (hdone : s.accI < interval c.ips) (hacc : 0 ≤ s.accT + c.elapsed) :
    Reaches (s.setUpdate (some c)) (s.timerPart c.elapsed) := by
  obtain ⟨hlo, hhi⟩ := dueCount_bounds timerInterval_pos hacc
  have hback : (s.timerPart c.elapsed).setUpdate none = s.timerPart c.elapsed :=
    State.setUpdate_self _ (by rw [s.timerPart_eq c.elapsed rfl]; exact hupdate)
  rw [← hback]
  exact .action hscript (updateAction_of_no_instruction_due hphase hdone)
    (reaches_timerLoop (s := s.setAccT (s.accT + c.elapsed)) hscript rfl hlo hhi)

/-- The call in progress runs the instruction loop: a fault ends it (spec/47_host_operations.md R185), else it is still in
progress where the loop ends. -/
theorem reaches_instructionLoop {n : Nat} (hscript : s.script = []) (hfault : s.fault = none)
    (hphase : c.phase = .instructions) (hlo : (n : Rat) * interval c.ips ≤ s.accI)
    (h : instructionLoop (interval c.ips) n s = .next t) :
    (t.fault ≠ none → Reaches (s.setUpdate (some c)) t) ∧
      (t.fault = none → Reaches (s.setUpdate (some c)) (t.setUpdate (some c))) := by
  induction n generalizing s with
  | zero =>
    cases h
    exact ⟨fun ht => absurd hfault ht, fun _ => .refl⟩
  | succ n ih =>
    obtain ⟨u, hu, hcases⟩ := instructionLoop_succ_cases h
    obtain ⟨eI, -⟩ := executeOne_keeps hu
    have hscript' := (executeOne_keeps_script hu).trans hscript
    have hrest := mul_nonneg n.cast_nonneg (interval_pos c.ips).le
    push_cast at hlo
    have htick := updateAction_of_instruction_due hphase (show interval c.ips ≤ s.accI by linarith) hu
    rcases hcases with ⟨hf, rfl⟩ | ⟨hf, hloop⟩
    · rw [State.afterTick_of_faulted (s := u.setUpdate (some c)) hf] at htick
      exact ⟨fun _ => .action hscript htick .refl, fun hn => absurd hn hf⟩
    · rw [State.afterTick_of_healthy (s := u.setUpdate (some c)) hf] at htick
      obtain ⟨hfaulted, hgoes⟩ := ih (s := u.setAccI (u.accI - interval c.ips)) hscript' hf
        (by rw [State.setAccI_accI]; linarith) hloop
      exact ⟨fun ht => .action hscript htick (hfaulted ht), fun ht => .action hscript htick (hgoes ht)⟩

/-- The transaction from a core with no fault: what the instruction loop leaves, with the timer half after it unless it ended by a
fault (spec/47_host_operations.md R181, R185). -/
theorem State.updateWhole_cases {elapsed : Seconds} {ips : Nat} (hfault : s.fault = none)
    (h : s.updateWhole elapsed ips = .next t) :
    ∃ u, instructionLoop (interval ips) (dueCount (s.accI + elapsed) (interval ips))
        (s.setAccI (s.accI + elapsed)) = .next u ∧
      ((u.fault ≠ none ∧ t = u) ∨ (u.fault = none ∧ t = u.timerPart elapsed)) := by
  simp only [State.updateWhole, hfault] at h
  obtain ⟨u, hu, rfl⟩ := thenNext_cases h
  refine ⟨u, hu, ?_⟩
  cases u.fault with
  | some f => exact .inl ⟨nofun, rfl⟩
  | none => exact .inr ⟨rfl, rfl⟩

end

/-- Settles O57: the call in progress runs the transaction's instruction loop, then, unless a fault ended it, its timer half. -/
theorem stepwiseUpdateIsTheWholeCall : Obligations.StepwiseUpdateIsTheWholeCall := by
  intro s t elapsed ips hsound hfault hupdate hscript helapsed h
  obtain ⟨-, -, -, -, -, hI, hT, -, -⟩ := hsound
  obtain ⟨hlo, hhi⟩ := dueCount_bounds (interval_pos ips) (add_nonneg hI helapsed)
  obtain ⟨u, hloop, hcases⟩ := State.updateWhole_cases hfault h
  have hbegin : s.beginUpdate elapsed ips =
      (s.setAccI (s.accI + elapsed)).setUpdate (some ⟨elapsed, ips, .instructions⟩) :=
    (s.beginUpdate_cases elapsed ips).elim (fun h => absurd hfault h.1) And.right
  have hreach := reaches_instructionLoop (c := ⟨elapsed, ips, .instructions⟩) (s := s.setAccI (s.accI + elapsed))
    hscript hfault rfl hlo hloop
  rw [hbegin]
  refine Reaches.exists_run ?_
  rcases hcases with ⟨hf, rfl⟩ | ⟨hf, rfl⟩
  · exact hreach.1 hf
  · obtain ⟨eI, eT, eupdate, escript⟩ := instructionLoop_keeps hloop hf
    simp only [State.setAccI_accI, State.setAccI_accT] at eI eT
    refine (hreach.2 hf).trans (reaches_timerPart (escript.trans hscript) (eupdate.trans hupdate) rfl ?_ ?_)
    · show u.accI < interval ips
      linarith
    · exact eT ▸ add_nonneg hT helapsed

end Sys2Proof.Machine
end
